-- ==== Sys2Proof/Word.lean ====
section
/-! DEFINITION. The words of the block: the widths of spec/00_scope.md R7 and nothing else. -/

namespace Sys2Proof

/-- A command word or a response word (R7: CMD_W = RSP_W = 64). -/
abbrev Word := BitVec 64

/-- A configuration or status register (R7: REG_W = 32). -/
abbrev Reg := BitVec 32

/-- The 16-bit pattern of a sample, coefficient, VCO entry or coordinate (R7: SAMPLE_W = 16). -/
abbrev Sample := BitVec 16

end Sys2Proof
end

