-- ==== Sys2Proof/Config.lean ====
section
/-! DEFINITION. The capacities of the block's RAMs, at the defaults of spec/00_scope.md R7
(log 8: R7 lets a model take them as configuration; every vector of the spec uses these values). -/

namespace Sys2Proof.Config

/-- VCO_CAP of R7: entries of VCOT. -/
def vcoCap : Nat := 1024

/-- ARM_CAP of R7: entries of ARMC and of each arm delay line. -/
def armCap : Nat := 255

/-- MF_CAP of R7: entries of MFC and of the matched-filter delay line. -/
def mfCap : Nat := 256

/-- EG_CAP of R7: entries of the early-gate delay line. -/
def egCap : Nat := 256

/-- TL_CAP of R7: entries of TLC and of the timing-loop-filter delay line. -/
def tlCap : Nat := 255

/-- SD_CAP of R7: entries of each sync delay buffer. -/
def sdCap : Nat := 1024

/-- CONST_CAP of R7: entries of CONST and of DELTA. -/
def constCap : Nat := 64

end Sys2Proof.Config
end

