-- ==== Sys2Proof/Syntax.lean ====
section
/-! DEFINITION. The command set SYNCCORE-1: one constructor per row of the opcode map
(spec/30_encoding.md R84), each with the operands R83 takes from the word. Every operand has
exactly the width of its field, so a register number, selector or index that does not exist is
still an operand: R85 makes those errors of the command, not of the decoder. -/

namespace Sys2Proof

/-- The buffer number of SD.DELAY (R83: t[0]). -/
inductive Buffer where
  /-- buffer 0, table SDB0 -/
  | sdb0
  /-- buffer 1, table SDB1 -/
  | sdb1
deriving DecidableEq, Repr

/-- The 21 commands of R84. -/
inductive Instr where
  /-- NOP (40_config_access.md R100) -/
  | nop
  /-- WRREG n, v (R101) -/
  | wrreg (n : BitVec 8) (v : Reg)
  /-- RDREG n (R102) -/
  | rdreg (n : BitVec 8)
  /-- WRTAB sel[i], v (R103) -/
  | wrtab (sel : BitVec 8) (idx : BitVec 16) (v : Reg)
  /-- RDTAB sel[i] (R104) -/
  | rdtab (sel : BitVec 8) (idx : BitVec 16)
  /-- CL.INIT (41_costas.md R110) -/
  | clInit
  /-- CL.RESET (R111) -/
  | clReset
  /-- CL.STEP x (R112) -/
  | clStep (x : Sample)
  /-- EL.INIT (42_elg.md R130) -/
  | elInit
  /-- EL.RESET (R132) -/
  | elReset
  /-- EL.STEP x (R134) -/
  | elStep (x : Sample)
  /-- SD.INIT (43_syncdelay.md R160) -/
  | sdInit
  /-- SD.RESET (R161) -/
  | sdReset
  /-- SD.DELAY b, x (R162) -/
  | sdDelay (b : Buffer) (x : Sample)
  /-- DD.INIT (44_decision.md R170) -/
  | ddInit
  /-- DD.RESET (R171) -/
  | ddReset
  /-- DD.SLICE i, q (R174) -/
  | ddSlice (pi : Sample) (pq : Sample)
  /-- DD.DIFF cur (R175) -/
  | ddDiff (cur : BitVec 6)
  /-- DM.STEP x (45_pipeline.md R190) -/
  | dmStep (x : Sample)
  /-- DM.BURST p (R193) -/
  | dmBurst (p : Bool)
  /-- DM.RESET (R192) -/
  | dmReset
deriving DecidableEq, Repr

end Sys2Proof
end

