-- ==== Sys2Proof/WellFormed.lean ====
section
/-! DEFINITION. What is well formed. An instruction always is: its operand types are exactly the
fields of R82 and R83 of spec/30_encoding.md, so no ill-formed term can be built. A command WORD
is well formed when it matches a row of the opcode map R84, which stands here as the spec prints
it, mask and match, independent of the decoder's own fields. -/

namespace Sys2Proof

/-- Every instruction is well formed (log 10): there is one arm per constructor, so that a
constructor added later must say what it asks of its operands. -/
def Instr.wellFormed : Instr → Bool
  | .nop => true
  | .wrreg _ _ => true
  | .rdreg _ => true
  | .wrtab _ _ _ => true
  | .rdtab _ _ => true
  | .clInit => true
  | .clReset => true
  | .clStep _ => true
  | .elInit => true
  | .elReset => true
  | .elStep _ => true
  | .sdInit => true
  | .sdReset => true
  | .sdDelay _ _ => true
  | .ddInit => true
  | .ddReset => true
  | .ddSlice _ _ => true
  | .ddDiff _ => true
  | .dmStep _ => true
  | .dmBurst _ => true
  | .dmReset => true

/-- The mnemonic of the row of R84 a command belongs to. -/
def mnemonicOf : Instr → String
  | .nop => "NOP"
  | .wrreg _ _ => "WRREG"
  | .rdreg _ => "RDREG"
  | .wrtab _ _ _ => "WRTAB"
  | .rdtab _ _ => "RDTAB"
  | .clInit => "CL.INIT"
  | .clReset => "CL.RESET"
  | .clStep _ => "CL.STEP"
  | .elInit => "EL.INIT"
  | .elReset => "EL.RESET"
  | .elStep _ => "EL.STEP"
  | .sdInit => "SD.INIT"
  | .sdReset => "SD.RESET"
  | .sdDelay _ _ => "SD.DELAY"
  | .ddInit => "DD.INIT"
  | .ddReset => "DD.RESET"
  | .ddSlice _ _ => "DD.SLICE"
  | .ddDiff _ => "DD.DIFF"
  | .dmStep _ => "DM.STEP"
  | .dmBurst _ => "DM.BURST"
  | .dmReset => "DM.RESET"

/-- One row of the opcode map of R84. -/
structure OpcodeRow where
  /-- the row's mnemonic -/
  mnemonic : String
  /-- the row's match word -/
  pattern : Word
  /-- the row's mask word -/
  mask : Word
deriving DecidableEq, Repr

/-- "a word W is the command of a row if and only if (W AND mask) = match" (R84). -/
def OpcodeRow.covers (r : OpcodeRow) (w : Word) : Bool := (w &&& r.mask) == r.pattern

/-- The opcode map of R84, row by row. -/
def opcodeMap : List OpcodeRow := [
  ⟨"NOP",      0x0000000000000000#64, 0xFFFFFFFFFFFFFFFF#64⟩,
  ⟨"WRREG",    0x0100000000000000#64, 0xFFFFFF0000000000#64⟩,
  ⟨"RDREG",    0x0200000000000000#64, 0xFFFFFF00FFFFFFFF#64⟩,
  ⟨"WRTAB",    0x0300000000000000#64, 0xFF00000000000000#64⟩,
  ⟨"RDTAB",    0x0400000000000000#64, 0xFF000000FFFFFFFF#64⟩,
  ⟨"CL.INIT",  0x1000000000000000#64, 0xFFFFFFFFFFFFFFFF#64⟩,
  ⟨"CL.RESET", 0x1100000000000000#64, 0xFFFFFFFFFFFFFFFF#64⟩,
  ⟨"CL.STEP",  0x1200000000000000#64, 0xFFFFFFFFFFFF0000#64⟩,
  ⟨"EL.INIT",  0x2000000000000000#64, 0xFFFFFFFFFFFFFFFF#64⟩,
  ⟨"EL.RESET", 0x2100000000000000#64, 0xFFFFFFFFFFFFFFFF#64⟩,
  ⟨"EL.STEP",  0x2200000000000000#64, 0xFFFFFFFFFFFF0000#64⟩,
  ⟨"SD.INIT",  0x3000000000000000#64, 0xFFFFFFFFFFFFFFFF#64⟩,
  ⟨"SD.RESET", 0x3100000000000000#64, 0xFFFFFFFFFFFFFFFF#64⟩,
  ⟨"SD.DELAY", 0x3200000000000000#64, 0xFFFEFFFFFFFF0000#64⟩,
  ⟨"DD.INIT",  0x4000000000000000#64, 0xFFFFFFFFFFFFFFFF#64⟩,
  ⟨"DD.RESET", 0x4100000000000000#64, 0xFFFFFFFFFFFFFFFF#64⟩,
  ⟨"DD.SLICE", 0x4200000000000000#64, 0xFFFFFFFF00000000#64⟩,
  ⟨"DD.DIFF",  0x4300000000000000#64, 0xFFFFFFFFFFFFFFC0#64⟩,
  ⟨"DM.STEP",  0x5000000000000000#64, 0xFFFFFFFFFFFF0000#64⟩,
  ⟨"DM.BURST", 0x5100000000000000#64, 0xFFFFFFFFFFFFFFFE#64⟩,
  ⟨"DM.RESET", 0x5200000000000000#64, 0xFFFFFFFFFFFFFFFF#64⟩]

/-- A command word is well formed when it matches a row of R84; any other word is illegal (R85). -/
def wordWellFormed (w : Word) : Bool := opcodeMap.any fun r => r.covers w

end Sys2Proof
end

