-- ==== Sys2Proof/Decode.lean ====
section
/-! DEFINITION. The decoder, total on 64-bit words (spec/30_encoding.md R81 to R85, R88), and the
encoder written from the same tables (R81 to R83, R89). Decoding reads no state (R88). There is no
byte order: the word is one parallel bus (20_memory.md R67). -/

namespace Sys2Proof

/-- Why a word is no command (R85): both are ILLEGAL_COMMAND to the block. -/
inductive DecodeError where
  /-- the opcode byte CMD[63:56] is in no row of R84 -/
  | unassignedOpcode (op : BitVec 8)
  /-- the opcode is assigned and a must-be-zero bit of its format (R82) is 1 -/
  | mbzBitSet (op : BitVec 8)
deriving DecidableEq, Repr

/-- `op` = CMD[63:56] (R81). -/
def fieldOp (w : Word) : BitVec 8 := w.extractLsb' 56 8

/-- `t` = CMD[55:48] (R81). -/
def fieldT (w : Word) : BitVec 8 := w.extractLsb' 48 8

/-- `a` = CMD[47:32] (R81). -/
def fieldA (w : Word) : BitVec 16 := w.extractLsb' 32 16

/-- `d` = CMD[31:0] (R81). -/
def fieldD (w : Word) : BitVec 32 := w.extractLsb' 0 32

/-- The upper half d[31:16]. -/
def hi16 (d : BitVec 32) : BitVec 16 := d.extractLsb' 16 16

/-- The lower half d[15:0]. -/
def lo16 (d : BitVec 32) : BitVec 16 := d.extractLsb' 0 16

/-- Accept the command when its must-be-zero bits are zero (R82). -/
def whenMbz (op : BitVec 8) (ok : Bool) (i : Instr) : Except DecodeError Instr :=
  if ok then .ok i else .error (.mbzBitSet op)

/-- Format N: t, a and d are MBZ. -/
def mbzN (w : Word) : Bool := fieldT w == 0 && fieldA w == 0 && fieldD w == 0

/-- Format RW: t and a[15:8] are MBZ. -/
def mbzRW (w : Word) : Bool := fieldT w == 0 && (fieldA w).extractLsb' 8 8 == 0

/-- Format RR: t, a[15:8] and d are MBZ. -/
def mbzRR (w : Word) : Bool := mbzRW w && fieldD w == 0

/-- Format TR: d is MBZ. -/
def mbzTR (w : Word) : Bool := fieldD w == 0

/-- Format S: t, a and d[31:16] are MBZ. -/
def mbzS (w : Word) : Bool := fieldT w == 0 && fieldA w == 0 && hi16 (fieldD w) == 0

/-- Format SB: t[7:1], a and d[31:16] are MBZ. -/
def mbzSB (w : Word) : Bool :=
  (fieldT w).extractLsb' 1 7 == 0 && fieldA w == 0 && hi16 (fieldD w) == 0

/-- Format P: t and a are MBZ. -/
def mbzP (w : Word) : Bool := fieldT w == 0 && fieldA w == 0

/-- Format X: t, a and d[31:6] are MBZ. -/
def mbzX (w : Word) : Bool :=
  fieldT w == 0 && fieldA w == 0 && (fieldD w).extractLsb' 6 26 == 0

/-- Format B: t, a and d[31:1] are MBZ. -/
def mbzB (w : Word) : Bool :=
  fieldT w == 0 && fieldA w == 0 && (fieldD w).extractLsb' 1 31 == 0

/-- The register number a[7:0] (R83). -/
def operandN (w : Word) : BitVec 8 := (fieldA w).extractLsb' 0 8

/-- The sample pattern d[15:0] (R83). -/
def operandX (w : Word) : Sample := lo16 (fieldD w)

/-- The buffer number t[0] (R83). -/
def operandB (w : Word) : Buffer := if (fieldT w).getLsbD 0 then .sdb1 else .sdb0

/-- Decode a command word (R84, R88): the opcode byte selects the row, the row's format says which
bits must be zero, and the operands are the fields R83 names. -/
def decode (w : Word) : Except DecodeError Instr :=
  match fieldOp w with
  | 0x00#8 => whenMbz 0x00#8 (mbzN w) .nop
  | 0x01#8 => whenMbz 0x01#8 (mbzRW w) (.wrreg (operandN w) (fieldD w))
  | 0x02#8 => whenMbz 0x02#8 (mbzRR w) (.rdreg (operandN w))
  | 0x03#8 => .ok (.wrtab (fieldT w) (fieldA w) (fieldD w))
  | 0x04#8 => whenMbz 0x04#8 (mbzTR w) (.rdtab (fieldT w) (fieldA w))
  | 0x10#8 => whenMbz 0x10#8 (mbzN w) .clInit
  | 0x11#8 => whenMbz 0x11#8 (mbzN w) .clReset
  | 0x12#8 => whenMbz 0x12#8 (mbzS w) (.clStep (operandX w))
  | 0x20#8 => whenMbz 0x20#8 (mbzN w) .elInit
  | 0x21#8 => whenMbz 0x21#8 (mbzN w) .elReset
  | 0x22#8 => whenMbz 0x22#8 (mbzS w) (.elStep (operandX w))
  | 0x30#8 => whenMbz 0x30#8 (mbzN w) .sdInit
  | 0x31#8 => whenMbz 0x31#8 (mbzN w) .sdReset
  | 0x32#8 => whenMbz 0x32#8 (mbzSB w) (.sdDelay (operandB w) (operandX w))
  | 0x40#8 => whenMbz 0x40#8 (mbzN w) .ddInit
  | 0x41#8 => whenMbz 0x41#8 (mbzN w) .ddReset
  | 0x42#8 => whenMbz 0x42#8 (mbzP w) (.ddSlice (hi16 (fieldD w)) (lo16 (fieldD w)))
  | 0x43#8 => whenMbz 0x43#8 (mbzX w) (.ddDiff ((fieldD w).extractLsb' 0 6))
  | 0x50#8 => whenMbz 0x50#8 (mbzS w) (.dmStep (operandX w))
  | 0x51#8 => whenMbz 0x51#8 (mbzB w) (.dmBurst ((fieldD w).getLsbD 0))
  | 0x52#8 => whenMbz 0x52#8 (mbzN w) .dmReset
  | op => .error (.unassignedOpcode op)

/-- The opcode byte of a command (R84, column op). -/
def opcode : Instr → BitVec 8
  | .nop => 0x00#8
  | .wrreg _ _ => 0x01#8
  | .rdreg _ => 0x02#8
  | .wrtab _ _ _ => 0x03#8
  | .rdtab _ _ => 0x04#8
  | .clInit => 0x10#8
  | .clReset => 0x11#8
  | .clStep _ => 0x12#8
  | .elInit => 0x20#8
  | .elReset => 0x21#8
  | .elStep _ => 0x22#8
  | .sdInit => 0x30#8
  | .sdReset => 0x31#8
  | .sdDelay _ _ => 0x32#8
  | .ddInit => 0x40#8
  | .ddReset => 0x41#8
  | .ddSlice _ _ => 0x42#8
  | .ddDiff _ => 0x43#8
  | .dmStep _ => 0x50#8
  | .dmBurst _ => 0x51#8
  | .dmReset => 0x52#8

/-- The selector field t[7:0] of a command (R82): 0 where the format says MBZ. -/
def encodeT : Instr → BitVec 8
  | .nop => 0#8
  | .wrreg _ _ => 0#8
  | .rdreg _ => 0#8
  | .wrtab sel _ _ => sel
  | .rdtab sel _ => sel
  | .clInit => 0#8
  | .clReset => 0#8
  | .clStep _ => 0#8
  | .elInit => 0#8
  | .elReset => 0#8
  | .elStep _ => 0#8
  | .sdInit => 0#8
  | .sdReset => 0#8
  | .sdDelay b _ => if b = .sdb1 then 1#8 else 0#8
  | .ddInit => 0#8
  | .ddReset => 0#8
  | .ddSlice _ _ => 0#8
  | .ddDiff _ => 0#8
  | .dmStep _ => 0#8
  | .dmBurst _ => 0#8
  | .dmReset => 0#8

/-- The address field a[15:0] of a command (R82): 0 where the format says MBZ. -/
def encodeA : Instr → BitVec 16
  | .nop => 0#16
  | .wrreg n _ => n.setWidth 16
  | .rdreg n => n.setWidth 16
  | .wrtab _ idx _ => idx
  | .rdtab _ idx => idx
  | .clInit => 0#16
  | .clReset => 0#16
  | .clStep _ => 0#16
  | .elInit => 0#16
  | .elReset => 0#16
  | .elStep _ => 0#16
  | .sdInit => 0#16
  | .sdReset => 0#16
  | .sdDelay _ _ => 0#16
  | .ddInit => 0#16
  | .ddReset => 0#16
  | .ddSlice _ _ => 0#16
  | .ddDiff _ => 0#16
  | .dmStep _ => 0#16
  | .dmBurst _ => 0#16
  | .dmReset => 0#16

/-- The data field d[31:0] of a command (R82): 0 where the format says MBZ. -/
def encodeD : Instr → BitVec 32
  | .nop => 0#32
  | .wrreg _ v => v
  | .rdreg _ => 0#32
  | .wrtab _ _ v => v
  | .rdtab _ _ => 0#32
  | .clInit => 0#32
  | .clReset => 0#32
  | .clStep x => x.setWidth 32
  | .elInit => 0#32
  | .elReset => 0#32
  | .elStep x => x.setWidth 32
  | .sdInit => 0#32
  | .sdReset => 0#32
  | .sdDelay _ x => x.setWidth 32
  | .ddInit => 0#32
  | .ddReset => 0#32
  | .ddSlice pi pq => pi ++ pq
  | .ddDiff cur => cur.setWidth 32
  | .dmStep x => x.setWidth 32
  | .dmBurst p => if p then 1#32 else 0#32
  | .dmReset => 0#32

/-- The four fields of R81 put together. -/
def joinFields (op t : BitVec 8) (a : BitVec 16) (d : BitVec 32) : Word := op ++ t ++ a ++ d

/-- The command word of an instruction (R81 to R83, R89). -/
def encode (i : Instr) : Word := joinFields (opcode i) (encodeT i) (encodeA i) (encodeD i)

/-- What the decoder reads from the low `nbits` bits of `w`, every higher bit of the word 0. The
command is one 64-bit word, so the table's bit numbers are the word's own (log 11). -/
def decodeTableWord (nbits w : Nat) : Option Instr :=
  match decode (BitVec.ofNat 64 (w % 2 ^ nbits)) with
  | .ok i => some i
  | .error _ => none

end Sys2Proof
end

