-- ==== Sys2Proof/Machine/State.lean ====
section
/-! DEFINITION. The whole architectural state of one block instance (spec/10_state.md R20 to R41,
20_memory.md R61) as plain data, its state after hardware reset (R41, R240), and the names of
errors, units and stops. `cmdPort` and `rspPort` are the model's own fields (log 1, log 2). -/

namespace Sys2Proof.Machine

/-- The units of R3 and their numbers in R210; `noUnit` is unit 0: decode, register
and table access. -/
inductive UnitId where
  /-- unit 0 -/
  | noUnit
  /-- unit 1, Costas loop -/
  | cl
  /-- unit 2, early-late gate -/
  | el
  /-- unit 3, sync delay -/
  | sd
  /-- unit 4, decision -/
  | dd
  /-- unit 5, demodulator pipeline -/
  | dm
deriving DecidableEq, Repr

/-- The error codes of R210 (7 to 15 are never produced). -/
inductive ErrorCode where
  /-- code 0: the command completed -/
  | ok
  /-- code 1: the word matches no row of the opcode map -/
  | illegalCommand
  /-- code 2: a configuration register holds an illegal value -/
  | paramError
  /-- code 3: a step command was sent to a unit that is not READY -/
  | notReady
  /-- code 4: a length register asks for more than the RAM has -/
  | resourceError
  /-- code 5: a register, selector or index does not exist or is not writable -/
  | addrError
  /-- code 6: an operand is outside the range the configuration allows -/
  | operandError
deriving DecidableEq, Repr

/-- The stops of a step. The block itself never stops (60_exceptions.md R219): its errors are taken
(R211) and are next states. -/
inductive Fault where
  /-- Raised by a step command of unit `u` (CL.STEP, EL.STEP, SD.DELAY, DD.SLICE, DD.DIFF, DM.STEP)
  when `u` is READY and its lengths or indices are not what R39 says they are in every reachable
  state, so that the command would address a table entry that does not exist. SAFE: no reachable
  state raises it, and the model claims nothing about such a state (log 5). -/
  | unsoundUnit (u : UnitId)
deriving DecidableEq, Repr

/-- The refusals of a step. -/
inductive Refusal where
  /-- Raised by the arm of a command that has no meaning yet; no arm raises it. SAFE: it claims
  nothing about the command. -/
  | notModelled (mnemonic : String)
deriving DecidableEq, Repr

/-- The burst state (R35). -/
inductive BurstState where
  /-- RESET, encoded 0 -/
  | reset
  /-- DEMODULATING, encoded 1 -/
  | demodulating
deriving DecidableEq, Repr

/-- A table: the (index, entry) pairs whose entry is not 0, indices strictly rising (log 6). -/
abbrev Table (width : Nat) := List (Nat × BitVec width)

/-- What the host can present at the block's inputs between two commands (R80). -/
inductive PortInput where
  /-- a word on the command port -/
  | command (w : Word)
  /-- a pulse of the hardware reset input -/
  | rst
deriving DecidableEq, Repr

/-- The configuration registers (R25), each the 32-bit pattern last written (R24). -/
structure ConfigRegs where
  /-- 0x00 CL_VCOSIZE -/
  clVcoSize : Reg
  /-- 0x01 CL_ARMLEN -/
  clArmLen : Reg
  /-- 0x02 CL_ALPHA -/
  clAlpha : Reg
  /-- 0x03 CL_CPI -/
  clCpi : Reg
  /-- 0x04 CL_MIACQ -/
  clMiAcq : Reg
  /-- 0x05 CL_MITRK -/
  clMiTrk : Reg
  /-- 0x06 CL_NTRACK -/
  clNtrack : Reg
  /-- 0x07 CL_FBMODE -/
  clFbMode : Reg
  /-- 0x10 EL_SYMLEN -/
  elSymLen : Reg
  /-- 0x11 EL_MFSHAPE -/
  elMfShape : Reg
  /-- 0x12 EL_EGLEN -/
  elEgLen : Reg
  /-- 0x13 EL_TLLEN -/
  elTlLen : Reg
  /-- 0x14 EL_THR -/
  elThr : Reg
  /-- 0x15 EL_TMODE -/
  elTmode : Reg
  /-- 0x20 SD_LEN -/
  sdLen : Reg
  /-- 0x30 DD_M -/
  ddM : Reg
  /-- 0x31 DD_MAGTHR -/
  ddMagThr : Reg
  /-- 0x38 DM_ELGSRC -/
  dmElgSrc : Reg
deriving DecidableEq, Repr

/-- The tables the host writes (R61 selectors 0 to 5). -/
structure HostTables where
  /-- selector 0 VCOT -/
  vcot : Table 16
  /-- selector 1 ARMC -/
  armc : Table 16
  /-- selector 2 MFC -/
  mfc : Table 16
  /-- selector 3 TLC -/
  tlc : Table 16
  /-- selector 4 CONST, an entry held as 32 bits: ci in the upper half, cq in the lower -/
  const : Table 32
  /-- selector 5 DELTA -/
  delta : Table 8
deriving DecidableEq, Repr

/-- CL dynamic state (R30). -/
structure ClState where
  /-- 0x42 CL_PH, u32 turn -/
  ph : BitVec 32
  /-- 0x43 CL_LF, s32 -/
  lf : BitVec 32
  /-- 0x44 CL_FB, s32 -/
  fb : BitVec 32
  /-- 0x45 CL_AIXI -/
  aixI : BitVec 8
  /-- 0x46 CL_AIXQ -/
  aixQ : BitVec 8
  /-- table ARMI -/
  armi : Table 16
  /-- table ARMQ -/
  armq : Table 16
deriving DecidableEq, Repr

/-- EL dynamic state (R31, R32) without EL_TRIGLAT, which no clear reaches (R241). -/
structure ElState where
  /-- 0x50 EL_MFIX -/
  mfIx : BitVec 9
  /-- 0x51 EL_MFSUM, s32 -/
  mfSum : BitVec 32
  /-- 0x52 EL_EGIX -/
  egIx : BitVec 9
  /-- 0x53 EL_TLIX -/
  tlIx : BitVec 8
  /-- 0x54 EL_ZCPREV, s32 -/
  zcPrev : BitVec 32
  /-- 0x55 EL_FLAGS bit 0 PULSE -/
  pulse : Bool
  /-- 0x55 EL_FLAGS bit 1 TRIGDET -/
  trigDet : Bool
  /-- 0x55 EL_FLAGS bit 2 TRIGUPD -/
  trigUpd : Bool
  /-- 0x56 EL_TRIGCNT -/
  trigCnt : BitVec 9
  /-- table MFB -/
  mfb : Table 16
  /-- table EGB -/
  egb : Table 32
  /-- table TLB -/
  tlb : Table 32
deriving DecidableEq, Repr

/-- SD dynamic state (R33). -/
structure SdState where
  /-- 0x60 SD_IX0 -/
  ix0 : BitVec 10
  /-- 0x61 SD_IX1 -/
  ix1 : BitVec 10
  /-- table SDB0 -/
  sdb0 : Table 16
  /-- table SDB1 -/
  sdb1 : Table 16
deriving DecidableEq, Repr

/-- DD dynamic state (R34). -/
structure DdState where
  /-- 0x70 DD_PREV -/
  prev : BitVec 6
  /-- 0x71 DD_DECCNT -/
  decCnt : BitVec 16
deriving DecidableEq, Repr

/-- The result registers (R37). -/
structure Results where
  /-- 0x78 RES_IQ -/
  iq : Reg
  /-- 0x79 RES_DIQ -/
  diq : Reg
  /-- 0x7A RES_DEC -/
  dec : Reg
deriving DecidableEq, Repr

/-- The state of one block instance (R20), and its two ports (R80; log 1, log 2). -/
structure State where
  /-- the configuration registers (R25) -/
  cfg : ConfigRegs
  /-- the host-written tables (R61) -/
  host : HostTables
  /-- CL_RDY (R27) -/
  clRdy : Bool
  /-- EL_RDY (R27) -/
  elRdy : Bool
  /-- SD_RDY (R27) -/
  sdRdy : Bool
  /-- DD_RDY (R27) -/
  ddRdy : Bool
  /-- 0x41 LASTERR (R29) -/
  lastErr : Reg
  /-- CL dynamic state (R30) -/
  cl : ClState
  /-- EL dynamic state (R31) -/
  el : ElState
  /-- 0x57 EL_TRIGLAT (R31) -/
  trigLat : BitVec 10
  /-- SD dynamic state (R33) -/
  sd : SdState
  /-- DD dynamic state (R34) -/
  dd : DdState
  /-- BSTATE (R35) -/
  bstate : BurstState
  /-- the result registers (R37) -/
  res : Results
  /-- the model's own: inputs presented and not yet taken, oldest first (log 1) -/
  cmdPort : List PortInput
  /-- the model's own: response words sent so far, oldest first (log 2) -/
  rspPort : List Word
deriving DecidableEq, Repr

/-- All configuration registers 0 (R24). -/
def ConfigRegs.zero : ConfigRegs where
  clVcoSize := 0#32
  clArmLen := 0#32
  clAlpha := 0#32
  clCpi := 0#32
  clMiAcq := 0#32
  clMiTrk := 0#32
  clNtrack := 0#32
  clFbMode := 0#32
  elSymLen := 0#32
  elMfShape := 0#32
  elEgLen := 0#32
  elTlLen := 0#32
  elThr := 0#32
  elTmode := 0#32
  sdLen := 0#32
  ddM := 0#32
  ddMagThr := 0#32
  dmElgSrc := 0#32

/-- All host tables 0 (R240). -/
def HostTables.zero : HostTables where
  vcot := []
  armc := []
  mfc := []
  tlc := []
  const := []
  delta := []

/-- CL dynamic state at zero: what R41 gives at reset and `ClClear` (R123) writes. -/
def ClState.zero : ClState where
  ph := 0#32
  lf := 0#32
  fb := 0#32
  aixI := 0#8
  aixQ := 0#8
  armi := []
  armq := []

/-- EL dynamic state at zero: what R41 gives at reset and `ElClear` (R133) writes. -/
def ElState.zero : ElState where
  mfIx := 0#9
  mfSum := 0#32
  egIx := 0#9
  tlIx := 0#8
  zcPrev := 0#32
  pulse := false
  trigDet := false
  trigUpd := false
  trigCnt := 0#9
  mfb := []
  egb := []
  tlb := []

/-- SD dynamic state at zero: what R41 gives at reset and `SdClear` (R163) writes. -/
def SdState.zero : SdState where
  ix0 := 0#10
  ix1 := 0#10
  sdb0 := []
  sdb1 := []

/-- DD dynamic state at zero: what R41 gives at reset and `DdClear` (R176) writes. -/
def DdState.zero : DdState where
  prev := 0#6
  decCnt := 0#16

/-- The result registers at zero (R41, R192). -/
def Results.zero : Results where
  iq := 0#32
  diq := 0#32
  dec := 0#32

/-- The state after hardware reset: everything zero, BSTATE = RESET (R41, R240); the ports are
empty (log 1, log 2). -/
def State.reset : State where
  cfg := ConfigRegs.zero
  host := HostTables.zero
  clRdy := false
  elRdy := false
  sdRdy := false
  ddRdy := false
  lastErr := 0#32
  cl := ClState.zero
  el := ElState.zero
  trigLat := 0#10
  sd := SdState.zero
  dd := DdState.zero
  bstate := .reset
  res := Results.zero
  cmdPort := []
  rspPort := []

end Sys2Proof.Machine
end

