-- ==== Sys2Proof/Machine/Ops.lean ====
section
/-! DEFINITION. The operations every command is written over: the arithmetic primitives of
spec/00_scope.md R11, table entries (20_memory.md R61, R63), the response word (30_encoding.md R86,
R87), a command's normal end `respond` (R15), and the one error mechanism `raise`
(60_exceptions.md R211). There is no return from an error: R217. -/

namespace Sys2Proof.Machine

/-- What a step answers. -/
abbrev Result := Host.Outcome State Fault Refusal

/-! ### Arithmetic primitives (R11) on mathematical integers (R10) -/

/-- `asr(v, n)`: floor(v / 2^n) (R11). -/
def asr (v : Int) (n : Nat) : Int := v / ((2 ^ n : Nat) : Int)

/-- `satN(v)`: v clamped to [-2^(N-1), 2^(N-1) - 1] (R11). -/
def sat (n : Nat) (v : Int) : Int :=
  if v < -((2 ^ (n - 1) : Nat) : Int) then -((2 ^ (n - 1) : Nat) : Int)
  else if v > ((2 ^ (n - 1) : Nat) : Int) - 1 then ((2 ^ (n - 1) : Nat) : Int) - 1
  else v

/-- `sgn(v)` (R11). -/
def sgn (v : Int) : Int := if v > 0 then 1 else if v = 0 then 0 else -1

/-- `abs(v)` (R11), which never wraps. -/
def absInt (v : Int) : Int := if v ≥ 0 then v else -v

/-- `sum_{k=0}^{n-1} f(k)`, exact, 0 if n = 0 (R15). -/
def sumTo (n : Nat) (f : Nat → Int) : Int :=
  match n with
  | 0 => 0
  | k + 1 => sumTo k f + f k

/-- The 32-bit word {u16(hi), u16(lo)} (R9, R11). -/
def pair16 (hi lo : Int) : BitVec 32 := BitVec.ofInt 16 hi ++ BitVec.ofInt 16 lo

/-! ### Tables -/

/-- What an entry reads as that nothing has written since reset: 0 (R63, R240). -/
def unlistedEntry (width : Nat) : BitVec width := 0#width

/-- `T[i]`: read of entry i (R15). -/
def tabGet {width : Nat} (t : Table width) (i : Nat) : BitVec width :=
  match t with
  | [] => unlistedEntry width
  | (j, v) :: rest => if j = i then v else tabGet rest i

/-- The table without its entry i. -/
def tabErase {width : Nat} (t : Table width) (i : Nat) : Table width :=
  match t with
  | [] => []
  | (j, w) :: rest => if j = i then tabErase rest i else (j, w) :: tabErase rest i

/-- The table with an entry i it does not yet list, in index order. -/
def tabInsert {width : Nat} (t : Table width) (i : Nat) (v : BitVec width) : Table width :=
  match t with
  | [] => [(i, v)]
  | (j, w) :: rest => if i < j then (i, v) :: (j, w) :: rest else (j, w) :: tabInsert rest i v

/-- `T[i] <- v`: write of entry i (R15), keeping the canonical form of log 6: writing what an
unlisted entry reads as lists nothing. -/
def tabSet {width : Nat} (t : Table width) (i : Nat) (v : BitVec width) : Table width :=
  if v = unlistedEntry width then tabErase t i else tabInsert (tabErase t i) i v

/-- The canonical form from index `lo` on: indices strictly rising, each below the capacity, no
entry equal to what an unlisted one reads as. -/
def tabWfFrom {width : Nat} (cap lo : Nat) (t : Table width) : Bool :=
  match t with
  | [] => true
  | (j, v) :: rest =>
    decide (lo ≤ j) && decide (j < cap) && decide (v ≠ unlistedEntry width)
      && tabWfFrom cap (j + 1) rest

/-- The canonical form of a table of capacity `cap` (log 6). -/
def tabWf {width : Nat} (cap : Nat) (t : Table width) : Bool := tabWfFrom cap 0 t

/-- All thirteen tables of R61 are in canonical form, inside their capacities. -/
def Memory.wf (s : State) : Bool :=
  tabWf Config.vcoCap s.host.vcot && tabWf Config.armCap s.host.armc
    && tabWf Config.mfCap s.host.mfc && tabWf Config.tlCap s.host.tlc
    && tabWf Config.constCap s.host.const && tabWf Config.constCap s.host.delta
    && tabWf Config.armCap s.cl.armi && tabWf Config.armCap s.cl.armq
    && tabWf Config.mfCap s.el.mfb && tabWf Config.egCap s.el.egb && tabWf Config.tlCap s.el.tlb
    && tabWf Config.sdCap s.sd.sdb0 && tabWf Config.sdCap s.sd.sdb1

/-- The entry tap k of a filter over a circular buffer reads, (ix - k) mod len with a non-negative
remainder (R11, R115): the one written k steps before index ix. -/
def tapIndex (ix k len : Nat) : Nat := (((ix : Int) - (k : Int)) % (len : Int)).toNat

/-- The exact FIR sum of `len` taps over a circular buffer whose newest entry is at `ix`: the one
structure of R115, R135 (ARBITRARY) and R138. -/
def firSum {width : Nat} (len : Nat) (coef : Table 16) (line : Table width) (ix : Nat) : Int :=
  sumTo len fun k => (tabGet coef k).toInt * (tabGet line (tapIndex ix k len)).toInt

/-! ### Responses -/

/-- The number of an error code (R210). -/
def ErrorCode.code : ErrorCode → BitVec 4
  | .ok => 0#4
  | .illegalCommand => 1#4
  | .paramError => 2#4
  | .notReady => 3#4
  | .resourceError => 4#4
  | .addrError => 5#4
  | .operandError => 6#4

/-- The number of a unit (R210). -/
def UnitId.num : UnitId → BitVec 4
  | .noUnit => 0#4
  | .cl => 1#4
  | .el => 2#4
  | .sd => 3#4
  | .dd => 4#4
  | .dm => 5#4

/-- The fields of a response word (R86); a field a rule does not mention is 0. -/
structure Response where
  /-- RSP[63:60] -/
  err : ErrorCode := .ok
  /-- RSP[53] -/
  fsep : Bool := false
  /-- RSP[52] -/
  trk : Bool := false
  /-- RSP[51] -/
  gated : Bool := false
  /-- RSP[50] -/
  rej : Bool := false
  /-- RSP[49] -/
  acc : Bool := false
  /-- RSP[48] -/
  trig : Bool := false
  /-- RSP[47:40] -/
  sym : BitVec 8 := 0#8
  /-- RSP[39:32] -/
  idx : BitVec 8 := 0#8
  /-- RSP[31:0] -/
  data : BitVec 32 := 0#32
deriving DecidableEq, Repr

/-- The FLAGS byte RSP[55:48] (R86). -/
def flagsByte (r : Response) : BitVec 8 :=
  0#2 ++ BitVec.ofBool r.fsep ++ BitVec.ofBool r.trk ++ BitVec.ofBool r.gated
    ++ BitVec.ofBool r.rej ++ BitVec.ofBool r.acc ++ BitVec.ofBool r.trig

/-- The response word (R86). -/
def packResponse (r : Response) : Word :=
  r.err.code ++ 0#4 ++ flagsByte r ++ r.sym ++ r.idx ++ r.data

/-- Send one response word (R80: exactly one per command, in command order). -/
def send (r : Response) (s : State) : State :=
  { s with rspPort := s.rspPort ++ [packResponse r] }

/-- `respond(...)`: the normal end of a command (R15, R87). -/
def respond (r : Response) (s : State) : Result := .next (send r s)

/-- The word LASTERR records (R29, R211): opcode, zero, check, unit, code. -/
def lastErrWord (op : BitVec 8) (e : ErrorCode) (u : UnitId) (check : BitVec 8) : Reg :=
  op ++ 0#8 ++ check ++ u.num ++ e.code

/-- `raise E(unit, check)`: the one error mechanism (R211). The state `s` holds the writes made
before it; LASTERR records the failure, the response is the code alone (R87), and the block goes on
with the next command. Nothing else is saved and no mode changes (R216). -/
def raise (op : BitVec 8) (e : ErrorCode) (u : UnitId) (check : BitVec 8) (s : State) : Result :=
  .next (send { err := e } { s with lastErr := lastErrWord op e u check })

/-- The error of a word that is no command (R85, R211): unit 0, check 0, the word's top byte. -/
def illegalCommand (w : Word) (s : State) : Result :=
  raise (fieldOp w) .illegalCommand .noUnit 0#8 s

end Sys2Proof.Machine
end

