-- ==== Sys2Proof/Machine/Flags.lean ====
section
/-! DEFINITION. Every flag the spec computes or packs: TRK (spec/10_state.md R36), STATUS (R28),
EL_FLAGS (R31), RES_DEC (R37, 45_pipeline.md R190). The block has no condition codes (R32). -/

namespace Sys2Proof.Machine

/-- TRK = (DD_DECCNT >= CL_NTRACK), computed whenever it is read (R36). -/
def trk (s : State) : Bool := decide (s.cfg.clNtrack.toNat ≤ s.dd.decCnt.toNat)

/-- BSTATE as its bit: 0 = RESET, 1 = DEMODULATING (R35). -/
def BurstState.bit : BurstState → Bool
  | .reset => false
  | .demodulating => true

/-- STATUS (R28): bit 0 CL_RDY, 1 EL_RDY, 2 SD_RDY, 3 DD_RDY, 4 BSTATE, 5 TRK, the rest 0. -/
def statusWord (s : State) : Reg :=
  0#26 ++ BitVec.ofBool (trk s) ++ BitVec.ofBool s.bstate.bit ++ BitVec.ofBool s.ddRdy
    ++ BitVec.ofBool s.sdRdy ++ BitVec.ofBool s.elRdy ++ BitVec.ofBool s.clRdy

/-- EL_FLAGS (R31): bit 0 PULSE, 1 TRIGDET, 2 TRIGUPD, the rest 0. -/
def elFlagsWord (e : ElState) : Reg :=
  0#29 ++ BitVec.ofBool e.trigUpd ++ BitVec.ofBool e.trigDet ++ BitVec.ofBool e.pulse

/-- RES_DEC (R37): bit 0 TRIG, 1 ACC, 2 REJ, bits [15:8] IDX, bits [23:16] SYM, the rest 0. -/
def resDecWord (trig acc rej : Bool) (idx sym : BitVec 8) : Reg :=
  0#8 ++ sym ++ idx ++ 0#5 ++ BitVec.ofBool rej ++ BitVec.ofBool acc ++ BitVec.ofBool trig

end Sys2Proof.Machine
end

