-- ==== Sys2Proof/Machine/Operands.lean ====
section
/-! DEFINITION. What an operand names (spec/30_encoding.md R83): register numbers
(10_state.md R25, R38), table selectors and entry formats (20_memory.md R61, R62), and the reads and
writes of them. One addressing mode for each (40_config_access.md). -/

namespace Sys2Proof.Machine

/-- `s16(x)`: the sample an operand stands for (R83). -/
def sampleOf (x : Sample) : Int := x.toInt

/-! ### Registers -/

/-- The configuration registers (R25). -/
inductive ConfigReg where
  | clVcoSize | clArmLen | clAlpha | clCpi | clMiAcq | clMiTrk | clNtrack | clFbMode
  | elSymLen | elMfShape | elEgLen | elTlLen | elThr | elTmode
  | sdLen | ddM | ddMagThr | dmElgSrc
deriving DecidableEq, Repr

/-- The status registers (R38). -/
inductive StatusReg where
  | status | lastErr | clPh | clLf | clFb | clAixI | clAixQ
  | elMfIx | elMfSum | elEgIx | elTlIx | elZcPrev | elFlags | elTrigCnt | elTrigLat
  | sdIx0 | sdIx1 | ddPrev | ddDecCnt | resIq | resDiq | resDec
deriving DecidableEq, Repr

/-- The configuration register a number names (R25), none for every other number. -/
def configRegOf (n : BitVec 8) : Option ConfigReg :=
  match n with
  | 0x00#8 => some .clVcoSize
  | 0x01#8 => some .clArmLen
  | 0x02#8 => some .clAlpha
  | 0x03#8 => some .clCpi
  | 0x04#8 => some .clMiAcq
  | 0x05#8 => some .clMiTrk
  | 0x06#8 => some .clNtrack
  | 0x07#8 => some .clFbMode
  | 0x10#8 => some .elSymLen
  | 0x11#8 => some .elMfShape
  | 0x12#8 => some .elEgLen
  | 0x13#8 => some .elTlLen
  | 0x14#8 => some .elThr
  | 0x15#8 => some .elTmode
  | 0x20#8 => some .sdLen
  | 0x30#8 => some .ddM
  | 0x31#8 => some .ddMagThr
  | 0x38#8 => some .dmElgSrc
  | _ => none

/-- The status register a number names (R38), none for every other number. -/
def statusRegOf (n : BitVec 8) : Option StatusReg :=
  match n with
  | 0x40#8 => some .status
  | 0x41#8 => some .lastErr
  | 0x42#8 => some .clPh
  | 0x43#8 => some .clLf
  | 0x44#8 => some .clFb
  | 0x45#8 => some .clAixI
  | 0x46#8 => some .clAixQ
  | 0x50#8 => some .elMfIx
  | 0x51#8 => some .elMfSum
  | 0x52#8 => some .elEgIx
  | 0x53#8 => some .elTlIx
  | 0x54#8 => some .elZcPrev
  | 0x55#8 => some .elFlags
  | 0x56#8 => some .elTrigCnt
  | 0x57#8 => some .elTrigLat
  | 0x60#8 => some .sdIx0
  | 0x61#8 => some .sdIx1
  | 0x70#8 => some .ddPrev
  | 0x71#8 => some .ddDecCnt
  | 0x78#8 => some .resIq
  | 0x79#8 => some .resDiq
  | 0x7A#8 => some .resDec
  | _ => none

/-- The pattern a configuration register holds (R24). -/
def cfgRead (c : ConfigRegs) : ConfigReg → Reg
  | .clVcoSize => c.clVcoSize
  | .clArmLen => c.clArmLen
  | .clAlpha => c.clAlpha
  | .clCpi => c.clCpi
  | .clMiAcq => c.clMiAcq
  | .clMiTrk => c.clMiTrk
  | .clNtrack => c.clNtrack
  | .clFbMode => c.clFbMode
  | .elSymLen => c.elSymLen
  | .elMfShape => c.elMfShape
  | .elEgLen => c.elEgLen
  | .elTlLen => c.elTlLen
  | .elThr => c.elThr
  | .elTmode => c.elTmode
  | .sdLen => c.sdLen
  | .ddM => c.ddM
  | .ddMagThr => c.ddMagThr
  | .dmElgSrc => c.dmElgSrc

/-- Write a configuration register: write-any (R24). -/
def cfgWrite (c : ConfigRegs) (r : ConfigReg) (v : Reg) : ConfigRegs :=
  match r with
  | .clVcoSize => { c with clVcoSize := v }
  | .clArmLen => { c with clArmLen := v }
  | .clAlpha => { c with clAlpha := v }
  | .clCpi => { c with clCpi := v }
  | .clMiAcq => { c with clMiAcq := v }
  | .clMiTrk => { c with clMiTrk := v }
  | .clNtrack => { c with clNtrack := v }
  | .clFbMode => { c with clFbMode := v }
  | .elSymLen => { c with elSymLen := v }
  | .elMfShape => { c with elMfShape := v }
  | .elEgLen => { c with elEgLen := v }
  | .elTlLen => { c with elTlLen := v }
  | .elThr => { c with elThr := v }
  | .elTmode => { c with elTmode := v }
  | .sdLen => { c with sdLen := v }
  | .ddM => { c with ddM := v }
  | .ddMagThr => { c with ddMagThr := v }
  | .dmElgSrc => { c with dmElgSrc := v }

/-- The unit that owns a configuration register (R25, R101). -/
def ownerOf : ConfigReg → UnitId
  | .clVcoSize => .cl
  | .clArmLen => .cl
  | .clAlpha => .cl
  | .clCpi => .cl
  | .clMiAcq => .cl
  | .clMiTrk => .cl
  | .clNtrack => .cl
  | .clFbMode => .cl
  | .elSymLen => .el
  | .elMfShape => .el
  | .elEgLen => .el
  | .elTlLen => .el
  | .elThr => .el
  | .elTmode => .el
  | .sdLen => .sd
  | .ddM => .dd
  | .ddMagThr => .dd
  | .dmElgSrc => .dm

/-- Clear the READY flag of the unit that owns a written register (R26); DM has none. -/
def clearReady (u : UnitId) (s : State) : State :=
  match u with
  | .noUnit => s
  | .cl => { s with clRdy := false }
  | .el => { s with elRdy := false }
  | .sd => { s with sdRdy := false }
  | .dd => { s with ddRdy := false }
  | .dm => s

/-- The 32-bit pattern a status register reads as (R30, R102): a signed register sign-extended, the
others zero-extended. -/
def statusRead (s : State) : StatusReg → Reg
  | .status => statusWord s
  | .lastErr => s.lastErr
  | .clPh => s.cl.ph
  | .clLf => s.cl.lf
  | .clFb => s.cl.fb
  | .clAixI => s.cl.aixI.setWidth 32
  | .clAixQ => s.cl.aixQ.setWidth 32
  | .elMfIx => s.el.mfIx.setWidth 32
  | .elMfSum => s.el.mfSum
  | .elEgIx => s.el.egIx.setWidth 32
  | .elTlIx => s.el.tlIx.setWidth 32
  | .elZcPrev => s.el.zcPrev
  | .elFlags => elFlagsWord s.el
  | .elTrigCnt => s.el.trigCnt.setWidth 32
  | .elTrigLat => s.trigLat.setWidth 32
  | .sdIx0 => s.sd.ix0.setWidth 32
  | .sdIx1 => s.sd.ix1.setWidth 32
  | .ddPrev => s.dd.prev.setWidth 32
  | .ddDecCnt => s.dd.decCnt.setWidth 32
  | .resIq => s.res.iq
  | .resDiq => s.res.diq
  | .resDec => s.res.dec

/-- REG[n] as RDREG sees it: none when the number is unimplemented (R21, R102). -/
def regRead (s : State) (n : BitVec 8) : Option Reg :=
  match configRegOf n with
  | some r => some (cfgRead s.cfg r)
  | none =>
    match statusRegOf n with
    | some r => some (statusRead s r)
    | none => none

/-! ### Tables -/

/-- The tables (R61). -/
inductive TableId where
  | vcot | armc | mfc | tlc | const | delta
  | armi | armq | mfb | egb | tlb | sdb0 | sdb1
deriving DecidableEq, Repr

/-- The table a selector names (R61), none for an unimplemented selector. -/
def tableOf (sel : BitVec 8) : Option TableId :=
  match sel with
  | 0#8 => some .vcot
  | 1#8 => some .armc
  | 2#8 => some .mfc
  | 3#8 => some .tlc
  | 4#8 => some .const
  | 5#8 => some .delta
  | 8#8 => some .armi
  | 9#8 => some .armq
  | 10#8 => some .mfb
  | 11#8 => some .egb
  | 12#8 => some .tlb
  | 13#8 => some .sdb0
  | 14#8 => some .sdb1
  | _ => none

/-- May the host write it (R61, R65)? -/
def hostWritable : TableId → Bool
  | .vcot => true
  | .armc => true
  | .mfc => true
  | .tlc => true
  | .const => true
  | .delta => true
  | .armi => false
  | .armq => false
  | .mfb => false
  | .egb => false
  | .tlb => false
  | .sdb0 => false
  | .sdb1 => false

/-- capacity(sel) (R61). -/
def capacity : TableId → Nat
  | .vcot => Config.vcoCap
  | .armc => Config.armCap
  | .mfc => Config.mfCap
  | .tlc => Config.tlCap
  | .const => Config.constCap
  | .delta => Config.constCap
  | .armi => Config.armCap
  | .armq => Config.armCap
  | .mfb => Config.mfCap
  | .egb => Config.egCap
  | .tlb => Config.tlCap
  | .sdb0 => Config.sdCap
  | .sdb1 => Config.sdCap

/-- The 32-bit value RDTAB returns for entry i (R62): s16 and s32 entries sign-extended, CONST as
{u16(ci), u16(cq)}, DELTA zero-extended. -/
def entryRead (s : State) (t : TableId) (i : Nat) : Reg :=
  match t with
  | .vcot => (tabGet s.host.vcot i).signExtend 32
  | .armc => (tabGet s.host.armc i).signExtend 32
  | .mfc => (tabGet s.host.mfc i).signExtend 32
  | .tlc => (tabGet s.host.tlc i).signExtend 32
  | .const => tabGet s.host.const i
  | .delta => (tabGet s.host.delta i).setWidth 32
  | .armi => (tabGet s.cl.armi i).signExtend 32
  | .armq => (tabGet s.cl.armq i).signExtend 32
  | .mfb => (tabGet s.el.mfb i).signExtend 32
  | .egb => tabGet s.el.egb i
  | .tlb => tabGet s.el.tlb i
  | .sdb0 => (tabGet s.sd.sdb0 i).signExtend 32
  | .sdb1 => (tabGet s.sd.sdb1 i).signExtend 32

/-- What WRTAB stores for datum d (R62, R103): s16(d[15:0]); CONST the pair (s16(d[31:16]),
s16(d[15:0])); DELTA d[7:0]. The delay lines are read only and stay (R65). -/
def entryWrite (s : State) (t : TableId) (i : Nat) (d : Reg) : State :=
  match t with
  | .vcot => { s with host := { s.host with vcot := tabSet s.host.vcot i (lo16 d) } }
  | .armc => { s with host := { s.host with armc := tabSet s.host.armc i (lo16 d) } }
  | .mfc => { s with host := { s.host with mfc := tabSet s.host.mfc i (lo16 d) } }
  | .tlc => { s with host := { s.host with tlc := tabSet s.host.tlc i (lo16 d) } }
  | .const => { s with host := { s.host with const := tabSet s.host.const i (hi16 d ++ lo16 d) } }
  | .delta => { s with host := { s.host with delta := tabSet s.host.delta i (d.setWidth 8) } }
  | .armi => s
  | .armq => s
  | .mfb => s
  | .egb => s
  | .tlb => s
  | .sdb0 => s
  | .sdb1 => s

end Sys2Proof.Machine
end

