-- ==== Sys2Proof/Machine/Sound.lean ====
section
/-! DEFINITION. The trigger latency formula (spec/42_elg.md R131), the legal configurations
(10_state.md R25) and, unit by unit, what R39 says of every reachable state: a READY unit's
configuration is legal and its indices are inside the lengths in use. -/

namespace Sys2Proof.Machine

/-- `TrigLat()` (R131). -/
def trigLatency (c : ConfigRegs) : Nat :=
  (c.elSymLen.toNat - 1) / 2 + (c.elEgLen.toNat + 1) / 2 + (c.elTlLen.toNat - 1) / 2
    + (if c.elTmode.toNat = 1 then c.elSymLen.toNat / 2 else 0)

/-- CL's configuration is legal (R25, column legal). -/
abbrev clLegal (c : ConfigRegs) : Prop :=
  1 ≤ c.clVcoSize.toNat ∧ c.clVcoSize.toNat ≤ Config.vcoCap
    ∧ c.clArmLen.toNat % 2 = 1 ∧ c.clArmLen.toNat ≤ Config.armCap
    ∧ c.clAlpha.toNat ≤ 0xFFFF ∧ c.clNtrack.toNat ≤ 0xFFFF ∧ c.clFbMode.toNat ≤ 2

/-- EL's configuration is legal (R25). -/
abbrev elLegal (c : ConfigRegs) : Prop :=
  1 ≤ c.elSymLen.toNat ∧ c.elSymLen.toNat ≤ Config.mfCap
    ∧ 1 ≤ c.elEgLen.toNat ∧ c.elEgLen.toNat ≤ Config.egCap
    ∧ c.elTlLen.toNat % 2 = 1 ∧ c.elTlLen.toNat ≤ Config.tlCap
    ∧ c.elMfShape.toNat ≤ 1 ∧ c.elTmode.toNat ≤ 1

/-- SD's configuration is legal (R25). -/
abbrev sdLegal (c : ConfigRegs) : Prop := 1 ≤ c.sdLen.toNat ∧ c.sdLen.toNat ≤ Config.sdCap

/-- DD's configuration is legal (R25). -/
abbrev ddLegal (c : ConfigRegs) : Prop := 1 ≤ c.ddM.toNat ∧ c.ddM.toNat ≤ Config.constCap

/-- What R39 (a), (b) says of a READY CL. -/
abbrev clSound (s : State) : Prop :=
  clLegal s.cfg ∧ s.cl.aixI = s.cl.aixQ ∧ s.cl.aixI.toNat < s.cfg.clArmLen.toNat

/-- What R39 (a), (c) says of a READY EL. -/
abbrev elSound (s : State) : Prop :=
  elLegal s.cfg ∧ s.el.mfIx.toNat < s.cfg.elSymLen.toNat ∧ s.el.egIx.toNat < s.cfg.elEgLen.toNat
    ∧ s.el.tlIx.toNat < s.cfg.elTlLen.toNat ∧ s.el.trigCnt.toNat < s.cfg.elSymLen.toNat
    ∧ s.trigLat.toNat = trigLatency s.cfg

/-- What R39 (a), (d) says of a READY SD. -/
abbrev sdSound (s : State) : Prop :=
  sdLegal s.cfg ∧ s.sd.ix0.toNat < s.cfg.sdLen.toNat ∧ s.sd.ix1.toNat < s.cfg.sdLen.toNat

/-- What R39 (a), (e) says of a READY DD. -/
abbrev ddSound (s : State) : Prop := ddLegal s.cfg ∧ s.dd.prev.toNat < s.cfg.ddM.toNat

end Sys2Proof.Machine
end

