-- ==== Sys2Proof/Machine/Access.lean ====
section
/-! DEFINITION. NOP, register access and table access (spec/40_config_access.md R100 to R104). -/

namespace Sys2Proof.Machine

/-- NOP (R100): the response is 0 and no state is written. -/
def execNop (s : State) : Result := respond {} s

/-- WRREG n, v (R101): write-any, then the owner's READY flag is cleared (R26). -/
def execWrreg (n : BitVec 8) (v : Reg) (s : State) : Result :=
  match configRegOf n with
  | none => raise (opcode (.wrreg n v)) .addrError .noUnit 1#8 s
  | some r => respond {} (clearReady (ownerOf r) { s with cfg := cfgWrite s.cfg r v })

/-- RDREG n (R102): no side effect. -/
def execRdreg (n : BitVec 8) (s : State) : Result :=
  match regRead s n with
  | none => raise (opcode (.rdreg n)) .addrError .noUnit 1#8 s
  | some v => respond { data := v } s

/-- WRTAB sel[i], v (R103): selector before index (R215); no READY flag changes (R66). -/
def execWrtab (sel : BitVec 8) (idx : BitVec 16) (v : Reg) (s : State) : Result :=
  match tableOf sel with
  | none => raise (opcode (.wrtab sel idx v)) .addrError .noUnit 2#8 s
  | some t =>
    if hostWritable t then
      if idx.toNat < capacity t then respond {} (entryWrite s t idx.toNat v)
      else raise (opcode (.wrtab sel idx v)) .addrError .noUnit 3#8 s
    else raise (opcode (.wrtab sel idx v)) .addrError .noUnit 2#8 s

/-- RDTAB sel[i] (R104): selector before index (R215); no side effect. -/
def execRdtab (sel : BitVec 8) (idx : BitVec 16) (s : State) : Result :=
  match tableOf sel with
  | none => raise (opcode (.rdtab sel idx)) .addrError .noUnit 2#8 s
  | some t =>
    if idx.toNat < capacity t then respond { data := entryRead s t idx.toNat } s
    else raise (opcode (.rdtab sel idx)) .addrError .noUnit 3#8 s

end Sys2Proof.Machine
end

