-- ==== Sys2Proof/Machine/Costas.lean ====
section
/-! DEFINITION. The Costas loop unit CL: CL.INIT, CL.RESET, CL.STEP and the stages of the step
(spec/41_costas.md R110 to R123). -/

namespace Sys2Proof.Machine

/-- `ClClear()` (R123). -/
def clClear (s : State) : State := { s with cl := ClState.zero }

/-- The checks of CL.INIT in their order: the first that fails, with its code and check id (R110). -/
def clInitCheck (c : ConfigRegs) : Option (ErrorCode × BitVec 8) :=
  if c.clVcoSize.toNat = 0 then some (.paramError, 1#8)
  else if c.clVcoSize.toNat > Config.vcoCap then some (.resourceError, 2#8)
  else if c.clArmLen.toNat % 2 = 0 then some (.paramError, 3#8)
  else if c.clArmLen.toNat > Config.armCap then some (.resourceError, 4#8)
  else if c.clAlpha.toNat > 0xFFFF then some (.paramError, 5#8)
  else if c.clNtrack.toNat > 0xFFFF then some (.paramError, 6#8)
  else if c.clFbMode.toNat > 2 then some (.paramError, 7#8)
  else none

/-- CL.INIT (R110): CL_RDY is cleared first and stays 0 on a failure, which zeroes nothing. -/
def execClInit (s : State) : Result :=
  match clInitCheck s.cfg with
  | some (e, check) => raise (opcode .clInit) e .cl check { s with clRdy := false }
  | none => respond {} { clClear s with clRdy := true }

/-- CL.RESET (R111): needs no READY flag and changes none. -/
def execClReset (s : State) : Result := respond {} (clClear s)

/-- `vidx(p) = asr(p * N, 32)` (R113). -/
def vidx (n : Nat) (p : BitVec 32) : Nat := p.toNat * n / 2 ^ 32

/-- Stage (a), `NcoRefs` (R113): the cosine of the phase, and of a quarter turn ahead. -/
def ncoRefs (c : ConfigRegs) (vcot : Table 16) (ph : BitVec 32) : Int × Int :=
  ((tabGet vcot (vidx c.clVcoSize.toNat ph)).toInt,
    (tabGet vcot (vidx c.clVcoSize.toNat (ph + 0x40000000#32))).toInt)

/-- Stage (b), one mixer (R114). -/
def mix (x ref : Int) : Int := sat 16 (asr (x * ref) 15)

/-- An arm filter's delay line after the write of this step (R115). -/
def armWrite (line : Table 16) (ix : Nat) (m : Int) : Table 16 := tabSet line ix (BitVec.ofInt 16 m)

/-- Stage (c), one arm filter's output from its delay line after the write (R115). -/
def armOutput (len : Nat) (coef line : Table 16) (ix : Nat) : Int :=
  sat 16 (asr (firSum len coef line ix) 15)

/-- Stage (d), the phase-error detector in its three modes (R117). A mode above 2 does not get here:
CL.INIT refuses it, and a READY CL with one is unsound. -/
def phaseError (mode : Nat) (i q : Int) : Int :=
  if mode = 0 then sgn i * q
  else if mode = 1 then sgn i * sgn q * 32768
  else sgn i * q - sgn q * i

/-- Stage (e), the one-pole loop filter (R118). -/
def loopFilter (alpha : Nat) (lf ev : Int) : Int := sat 32 (2 * ev + asr ((alpha : Int) * lf) 16)

/-- The modulation index: CL_MITRK in tracking, CL_MIACQ in acquisition, each read as s32 (R119). -/
def modIndex (c : ConfigRegs) (tracking : Bool) : Int :=
  if tracking then c.clMiTrk.toInt else c.clMiAcq.toInt

/-- Stage (f), the phase integrator (R120). -/
def ncoAdvance (ph cpi : BitVec 32) (mi lf : Int) : BitVec 32 :=
  BitVec.ofInt 32 ((ph.toNat : Int) + (cpi.toNat : Int) + asr (mi * lf) 16)

/-- What one step of CL leaves: its state and the pair (I, Q). -/
structure ClOut where
  /-- CL's dynamic state after the step -/
  cl : ClState
  /-- the I arm's output -/
  i : Int
  /-- the Q arm's output -/
  q : Int
deriving DecidableEq, Repr

/-- The stages (a) to (g) of `ClStep` on CL's own state (R112). -/
def clDatapath (c : ConfigRegs) (h : HostTables) (tracking : Bool) (cl : ClState) (x : Int) : ClOut :=
  let len := c.clArmLen.toNat
  let refs := ncoRefs c h.vcot cl.ph
  let armi := armWrite cl.armi cl.aixI.toNat (mix x refs.1)
  let armq := armWrite cl.armq cl.aixQ.toNat (mix x refs.2)
  let i := armOutput len h.armc armi cl.aixI.toNat
  let q := armOutput len h.armc armq cl.aixQ.toNat
  let ev := phaseError c.clFbMode.toNat i q
  let lf := loopFilter c.clAlpha.toNat cl.lf.toInt ev
  { cl :=
      { ph := ncoAdvance cl.ph c.clCpi (modIndex c tracking) lf
        lf := BitVec.ofInt 32 lf
        fb := BitVec.ofInt 32 ev
        aixI := BitVec.ofNat 8 ((cl.aixI.toNat + 1) % len)
        aixQ := BitVec.ofNat 8 ((cl.aixQ.toNat + 1) % len)
        armi := armi
        armq := armq }
    i := i
    q := q }

/-- What `ClStep(x)` computes in the state `s` (R112, R119: TRK as the state holds it). -/
def clOut (s : State) (x : Int) : ClOut := clDatapath s.cfg s.host (trk s) s.cl x

/-- The state after `ClStep(x)` (R112): CL's state and RES_IQ. -/
def clStepState (s : State) (x : Int) : State :=
  { s with
    cl := (clOut s x).cl
    res := { s.res with iq := pair16 (clOut s x).i (clOut s x).q } }

/-- CL.STEP x (R112). -/
def execClStep (x : Sample) (s : State) : Result :=
  if s.clRdy then
    if clSound s then
      respond
        { trk := trk s, data := pair16 (clOut s (sampleOf x)).i (clOut s (sampleOf x)).q }
        (clStepState s (sampleOf x))
    else .fault (.unsoundUnit .cl)
  else raise (opcode (.clStep x)) .notReady .cl 0#8 s

end Sys2Proof.Machine
end

