-- ==== Sys2Proof/Machine/Decision.lean ====
section
/-! DEFINITION. The decision unit DD: DD.INIT, DD.RESET, DD.SLICE, DD.DIFF
(spec/44_decision.md R170 to R176). -/

namespace Sys2Proof.Machine

/-- `DdClear()` (R176). -/
def ddClear (s : State) : State := { s with dd := DdState.zero }

/-- The checks of DD.INIT in their order (R170). -/
def ddInitCheck (c : ConfigRegs) : Option (ErrorCode × BitVec 8) :=
  if c.ddM.toNat = 0 then some (.paramError, 1#8)
  else if c.ddM.toNat > Config.constCap then some (.resourceError, 2#8)
  else none

/-- DD.INIT (R170). -/
def execDdInit (s : State) : Result :=
  match ddInitCheck s.cfg with
  | some (e, check) => raise (opcode .ddInit) e .dd check { s with ddRdy := false }
  | none => respond {} { ddClear s with ddRdy := true }

/-- DD.RESET (R171): needs no READY flag and changes none. -/
def execDdReset (s : State) : Result := respond {} (ddClear s)

/-- `ci` of CONST[k] (R61, R62). -/
def constI (const : Table 32) (k : Nat) : Int := (hi16 (tabGet const k)).toInt

/-- `cq` of CONST[k] (R61, R62). -/
def constQ (const : Table 32) (k : Nat) : Int := (lo16 (tabGet const k)).toInt

/-- `dist[k]`, the exact squared distance of (I, Q) to constellation point k (R172). -/
def distSq (const : Table 32) (i q : Int) (k : Nat) : Int :=
  (i - constI const k) ^ 2 + (q - constQ const k) ^ 2

/-- The first minimum of `dist` over 0 .. last and its value (R172: ties go to the lower index). -/
def firstMin (dist : Nat → Int) (last : Nat) : Nat × Int :=
  match last with
  | 0 => (0, dist 0)
  | k + 1 =>
    match firstMin dist k with
    | (best, least) => if dist (k + 1) < least then (k + 1, dist (k + 1)) else (best, least)

/-- `Nearest(I, Q)` over the first M points (R172). -/
def nearest (m : Nat) (const : Table 32) (i q : Int) : Nat :=
  (firstMin (distSq const i q) (m - 1)).1

/-- `Gate(I, Q)`: accept unless I * I + Q * Q < DD_MAGTHR (R173). -/
def gateAccepts (thr : Nat) (i q : Int) : Bool := decide ((thr : Int) ≤ i * i + q * q)

/-- What `Slice(I, Q)` returns: none, or the index of the decision (R174). -/
def sliceOut (s : State) (i q : Int) : Option Nat :=
  if gateAccepts s.cfg.ddMagThr.toNat i q then some (nearest s.cfg.ddM.toNat s.host.const i q)
  else none

/-- DD_DECCNT after an accepted decision: saturating at 65535 (R174). -/
def decCntNext (n : BitVec 16) : BitVec 16 := BitVec.ofNat 16 (min (n.toNat + 1) 65535)

/-- The state after `Slice(I, Q)` (R174): DD_DECCNT counts an accepted decision. -/
def sliceState (s : State) (i q : Int) : State :=
  if gateAccepts s.cfg.ddMagThr.toNat i q then
    { s with dd := { s.dd with decCnt := decCntNext s.dd.decCnt } }
  else s

/-- `delta = (cur - DD_PREV + M) mod M` (R175). -/
def diffDelta (m prev cur : Nat) : Nat := (((cur : Int) - (prev : Int) + (m : Int)) % (m : Int)).toNat

/-- What `Diff(cur)` returns: the entry of DELTA (R175). -/
def diffOut (s : State) (cur : Nat) : BitVec 8 :=
  tabGet s.host.delta (diffDelta s.cfg.ddM.toNat s.dd.prev.toNat cur)

/-- The state after `Diff(cur)` (R175). -/
def diffState (s : State) (cur : Nat) : State :=
  { s with dd := { s.dd with prev := BitVec.ofNat 6 cur } }

/-- The response of DD.SLICE (R174). -/
def sliceResponse : Option Nat → Response
  | none => { rej := true, idx := 0xFF#8 }
  | some k => { acc := true, idx := BitVec.ofNat 8 k }

/-- DD.SLICE i, q (R174). -/
def execDdSlice (pi pq : Sample) (s : State) : Result :=
  if s.ddRdy then
    if ddSound s then
      respond (sliceResponse (sliceOut s (sampleOf pi) (sampleOf pq)))
        (sliceState s (sampleOf pi) (sampleOf pq))
    else .fault (.unsoundUnit .dd)
  else raise (opcode (.ddSlice pi pq)) .notReady .dd 0#8 s

/-- DD.DIFF cur (R175): NOT_READY before OPERAND_ERROR (R215). -/
def execDdDiff (cur : BitVec 6) (s : State) : Result :=
  if s.ddRdy then
    if cur.toNat < s.cfg.ddM.toNat then
      if ddSound s then respond { sym := diffOut s cur.toNat } (diffState s cur.toNat)
      else .fault (.unsoundUnit .dd)
    else raise (opcode (.ddDiff cur)) .operandError .dd 1#8 s
  else raise (opcode (.ddDiff cur)) .notReady .dd 0#8 s

end Sys2Proof.Machine
end

