-- ==== Sys2Proof/Machine/Elg.lean ====
section
/-! DEFINITION. The early-late-gate unit EL: EL.INIT, EL.RESET, EL.STEP and the stages of the step
(spec/42_elg.md R130 to R141). -/

namespace Sys2Proof.Machine

/-- `ElClear()` (R133); EL_TRIGLAT is not touched. -/
def elClear (s : State) : State := { s with el := ElState.zero }

/-- The checks of EL.INIT in their order (R130). -/
def elInitCheck (c : ConfigRegs) : Option (ErrorCode × BitVec 8) :=
  if c.elSymLen.toNat = 0 then some (.paramError, 1#8)
  else if c.elSymLen.toNat > Config.mfCap then some (.resourceError, 2#8)
  else if c.elEgLen.toNat = 0 then some (.paramError, 3#8)
  else if c.elEgLen.toNat > Config.egCap then some (.resourceError, 4#8)
  else if c.elTlLen.toNat % 2 = 0 then some (.paramError, 5#8)
  else if c.elTlLen.toNat > Config.tlCap then some (.resourceError, 6#8)
  else if c.elMfShape.toNat > 1 then some (.paramError, 7#8)
  else if c.elTmode.toNat > 1 then some (.paramError, 8#8)
  else none

/-- EL.INIT (R130): on success the response's DATA is the trigger latency. -/
def execElInit (s : State) : Result :=
  match elInitCheck s.cfg with
  | some (e, check) => raise (opcode .elInit) e .el check { s with elRdy := false }
  | none =>
    respond { data := BitVec.ofNat 32 (trigLatency s.cfg) }
      { elClear s with trigLat := BitVec.ofNat 10 (trigLatency s.cfg), elRdy := true }

/-- EL.RESET (R132): needs no READY flag and changes none. -/
def execElReset (s : State) : Result := respond {} (elClear s)

/-- MFB after the write of this step (R135). -/
def mfWrite (e : ElState) (x : Int) : Table 16 := tabSet e.mfb e.mfIx.toNat (BitVec.ofInt 16 x)

/-- Stage (a), the matched filter's output: the sliding sum (SQUARE) or the correlation (ARBITRARY)
over the delay line after the write (R135). -/
def mfOutput (c : ConfigRegs) (mfc : Table 16) (e : ElState) (x : Int) : Int :=
  if c.elMfShape.toNat = 0 then e.mfSum.toInt + x - (tabGet e.mfb e.mfIx.toNat).toInt
  else asr (firSum c.elSymLen.toNat mfc (mfWrite e x) e.mfIx.toNat) 15

/-- Stages (b) and (c), the timing error early - late (R136, R137): the matched-filter output D steps
ago against the one now, both as magnitudes. -/
def timingError (e : ElState) (mf : Int) : Int :=
  absInt (tabGet e.egb e.egIx.toNat).toInt - absInt mf

/-- TLB after the write of this step (R138). -/
def tlWrite (e : ElState) (te : Int) : Table 32 := tabSet e.tlb e.tlIx.toNat (BitVec.ofInt 32 te)

/-- Stage (d), the timing loop filter (R138). -/
def tlOutput (c : ConfigRegs) (tlc : Table 16) (e : ElState) (te : Int) : Int :=
  asr (firSum c.elTlLen.toNat tlc (tlWrite e te) e.tlIx.toNat) 15

/-- Stage (e), first half, the pulse detector: pulse' (R139). -/
def pulseArmed (pulse : Bool) (thr : Nat) (lf : Int) : Bool := pulse || decide (lf ≤ -(thr : Int))

/-- An upward crossing between the previous step and this one (R140). -/
def zeroCrossing (zcPrev lf : Int) : Bool := decide (zcPrev < 0) && decide (lf ≥ 0)

/-- The trigger reverberator's state and its pulse. -/
structure Reverb where
  /-- TRIGDET -/
  det : Bool
  /-- TRIGUPD -/
  upd : Bool
  /-- EL_TRIGCNT -/
  cnt : Nat
  /-- the one-sample trigger pulse of this step -/
  trig : Bool
deriving DecidableEq, Repr

/-- The nudge of R141: a qualifying crossing off the expected instant moves the counter by one sample,
at most once between two triggers. The result is (c, TRIGUPD). -/
def nudge (len : Nat) (q upd : Bool) (c : Nat) : Nat × Bool :=
  if q ∧ upd = false ∧ c ≠ len then (if 2 * c < len then c - 1 else c + 1, true) else (c, upd)

/-- Stage (f), the trigger reverberator (R141). -/
def reverberate (len : Nat) (q det upd : Bool) (cnt : Nat) : Reverb :=
  if det then
    let n := nudge len q upd (cnt + 1)
    if n.1 ≥ len then { det := true, upd := false, cnt := 0, trig := true }
    else { det := true, upd := n.2, cnt := n.1, trig := false }
  else if q then { det := true, upd := false, cnt := 0, trig := true }
  else { det := false, upd := upd, cnt := cnt, trig := false }

/-- What one step of EL leaves: its state and the trigger pulse. -/
structure ElOut where
  /-- EL's dynamic state after the step -/
  el : ElState
  /-- the trigger pulse -/
  trig : Bool
deriving DecidableEq, Repr

/-- The stages (a) to (f) of `ElStep` on EL's own state (R134). -/
def elDatapath (c : ConfigRegs) (h : HostTables) (e : ElState) (x : Int) : ElOut :=
  let mf := mfOutput c h.mfc e x
  let te := timingError e mf
  let lf := tlOutput c h.tlc e te
  let armed := pulseArmed e.pulse c.elThr.toNat lf
  let q := zeroCrossing e.zcPrev.toInt lf && armed
  let r := reverberate c.elSymLen.toNat q e.trigDet e.trigUpd e.trigCnt.toNat
  { el :=
      { mfIx := BitVec.ofNat 9 ((e.mfIx.toNat + 1) % c.elSymLen.toNat)
        mfSum := BitVec.ofInt 32 mf
        egIx := BitVec.ofNat 9 ((e.egIx.toNat + 1) % c.elEgLen.toNat)
        tlIx := BitVec.ofNat 8 ((e.tlIx.toNat + 1) % c.elTlLen.toNat)
        zcPrev := BitVec.ofInt 32 lf
        pulse := armed && !q
        trigDet := r.det
        trigUpd := r.upd
        trigCnt := BitVec.ofNat 9 r.cnt
        mfb := mfWrite e x
        egb := tabSet e.egb e.egIx.toNat (BitVec.ofInt 32 mf)
        tlb := tlWrite e te }
    trig := r.trig }

/-- What `ElStep(x)` computes in the state `s` (R134). -/
def elOut (s : State) (x : Int) : ElOut := elDatapath s.cfg s.host s.el x

/-- The state after `ElStep(x)` (R134). -/
def elStepState (s : State) (x : Int) : State := { s with el := (elOut s x).el }

/-- EL.STEP x (R134). -/
def execElStep (x : Sample) (s : State) : Result :=
  if s.elRdy then
    if elSound s then
      respond { trig := (elOut s (sampleOf x)).trig } (elStepState s (sampleOf x))
    else .fault (.unsoundUnit .el)
  else raise (opcode (.elStep x)) .notReady .el 0#8 s

end Sys2Proof.Machine
end

