-- ==== Sys2Proof/Machine/SyncDelay.lean ====
section
/-! DEFINITION. The synchronization delay unit SD: SD.INIT, SD.RESET, SD.DELAY
(spec/43_syncdelay.md R160 to R163). -/

namespace Sys2Proof.Machine

/-- `SdClear()` (R163). -/
def sdClear (s : State) : State := { s with sd := SdState.zero }

/-- The checks of SD.INIT in their order (R160). -/
def sdInitCheck (c : ConfigRegs) : Option (ErrorCode × BitVec 8) :=
  if c.sdLen.toNat = 0 then some (.paramError, 1#8)
  else if c.sdLen.toNat > Config.sdCap then some (.resourceError, 2#8)
  else none

/-- SD.INIT (R160); SD_LEN is not compared with EL_TRIGLAT (R164). -/
def execSdInit (s : State) : Result :=
  match sdInitCheck s.cfg with
  | some (e, check) => raise (opcode .sdInit) e .sd check { s with sdRdy := false }
  | none => respond {} { sdClear s with sdRdy := true }

/-- SD.RESET (R161): needs no READY flag and changes none. -/
def execSdReset (s : State) : Result := respond {} (sdClear s)

/-- The delay line of a buffer (R162). -/
def sdLine (sd : SdState) : Buffer → Table 16
  | .sdb0 => sd.sdb0
  | .sdb1 => sd.sdb1

/-- The index of a buffer (R162). -/
def sdIndex (sd : SdState) : Buffer → Nat
  | .sdb0 => sd.ix0.toNat
  | .sdb1 => sd.ix1.toNat

/-- The value `SdDelay(b, x)` returns: the oldest entry (R162). -/
def sdOut (sd : SdState) (b : Buffer) : Int := (tabGet (sdLine sd b) (sdIndex sd b)).toInt

/-- SD's state after `SdDelay(b, x)` (R162): the other buffer is untouched. -/
def sdPush (len : Nat) (sd : SdState) (b : Buffer) (x : Int) : SdState :=
  match b with
  | .sdb0 =>
    { sd with
      sdb0 := tabSet sd.sdb0 sd.ix0.toNat (BitVec.ofInt 16 x)
      ix0 := BitVec.ofNat 10 ((sd.ix0.toNat + 1) % len) }
  | .sdb1 =>
    { sd with
      sdb1 := tabSet sd.sdb1 sd.ix1.toNat (BitVec.ofInt 16 x)
      ix1 := BitVec.ofNat 10 ((sd.ix1.toNat + 1) % len) }

/-- The state after `SdDelay(b, x)` (R162). -/
def sdDelayState (s : State) (b : Buffer) (x : Int) : State :=
  { s with sd := sdPush s.cfg.sdLen.toNat s.sd b x }

/-- SD.DELAY b, x (R162): DATA is zext_32(u16(out)). -/
def execSdDelay (b : Buffer) (x : Sample) (s : State) : Result :=
  if s.sdRdy then
    if sdSound s then
      respond { data := (BitVec.ofInt 16 (sdOut s.sd b)).setWidth 32 }
        (sdDelayState s b (sampleOf x))
    else .fault (.unsoundUnit .sd)
  else raise (opcode (.sdDelay b x)) .notReady .sd 0#8 s

end Sys2Proof.Machine
end

