-- ==== Sys2Proof/Machine/Pipeline.lean ====
section
/-! DEFINITION. The demodulator pipeline DM: DM.STEP, DM.BURST, DM.RESET
(spec/45_pipeline.md R190 to R194). -/

namespace Sys2Proof.Machine

/-- `Flush()` (R192): the four clears and the result registers. -/
def flush (s : State) : State := { ddClear (sdClear (elClear (clClear s))) with res := Results.zero }

/-- DM.RESET (R192): the flush, BSTATE to RESET, no frame separator. -/
def execDmReset (s : State) : Result := respond {} { flush s with bstate := .reset }

/-- DM.BURST p (R193): the four cases of the burst state machine. DATA is the state after. -/
def execDmBurst (p : Bool) (s : State) : Result :=
  match s.bstate, p with
  | .reset, false => respond { data := 0#32 } s
  | .reset, true => respond { data := 1#32 } { s with bstate := .demodulating }
  | .demodulating, true => respond { data := 1#32 } s
  | .demodulating, false => respond { fsep := true, data := 0#32 } { flush s with bstate := .reset }

/-- The fields ACC, REJ, IDX, SYM of a DM.STEP (R190). -/
structure DecisionFields where
  /-- the slicer accepted -/
  acc : Bool
  /-- the slicer rejected -/
  rej : Bool
  /-- the index, or 0xFF for no decision -/
  idx : BitVec 8
  /-- the decoded symbol -/
  sym : BitVec 8
deriving DecidableEq, Repr

/-- The decision fields of a step (R190): the slicer runs only on a trigger, and the differential
decoder, in the state `s` the slicer left, only on an accepted decision. -/
def decisionFields (s : State) (trig : Bool) (r : Option Nat) : DecisionFields :=
  if trig then
    match r with
    | none => { acc := false, rej := true, idx := 0xFF#8, sym := 0#8 }
    | some k => { acc := true, rej := false, idx := BitVec.ofNat 8 k, sym := diffOut s k }
  else { acc := false, rej := false, idx := 0xFF#8, sym := 0#8 }

/-- The state after the decision stage (R190): `Slice`, then `Diff` on an accepted decision. -/
def decisionState (s : State) (trig : Bool) (dI dQ : Int) : State :=
  if trig then
    match sliceOut s dI dQ with
    | none => sliceState s dI dQ
    | some k => diffState (sliceState s dI dQ) k
  else s

/-- Which arm output feeds the ELG (R190, R194): Q if DM_ELGSRC = 1, else I. -/
def elgInput (c : ConfigRegs) (o : ClOut) : Int := if c.dmElgSrc.toNat = 1 then o.q else o.i

/-- The state after `ClStep(x)` and `ElStep` on the arm output DM_ELGSRC selects (R190, R194). -/
def dmLoopState (s : State) (x : Int) : State :=
  elStepState (clStepState s x) (elgInput s.cfg (clOut s x))

/-- TRIG of DM.STEP: the trigger pulse of that `ElStep` (R190). -/
def dmTrig (s : State) (x : Int) : Bool :=
  (elOut (clStepState s x) (elgInput s.cfg (clOut s x))).trig

/-- The state after I has gone into buffer 0 (R190, R194). -/
def dmDelayIState (s : State) (x : Int) : State := sdDelayState (dmLoopState s x) .sdb0 (clOut s x).i

/-- dI: what buffer 0 gives for I (R190). -/
def dmDelayedI (s : State) (x : Int) : Int := sdOut (dmLoopState s x).sd .sdb0

/-- dQ: what buffer 1 gives for Q (R190). -/
def dmDelayedQ (s : State) (x : Int) : Int := sdOut (dmDelayIState s x).sd .sdb1

/-- The state after both delay buffers, with the delayed pair in RES_DIQ (R190, R37). -/
def dmDelayState (s : State) (x : Int) : State :=
  let s1 := sdDelayState (dmDelayIState s x) .sdb1 (clOut s x).q
  { s1 with res := { s1.res with diq := pair16 (dmDelayedI s x) (dmDelayedQ s x) } }

/-- The decision fields of the step, from the delayed pair (R190). -/
def dmDecision (s : State) (x : Int) : DecisionFields :=
  decisionFields (sliceState (dmDelayState s x) (dmDelayedI s x) (dmDelayedQ s x)) (dmTrig s x)
    (sliceOut (dmDelayState s x) (dmDelayedI s x) (dmDelayedQ s x))

/-- RES_DEC of the step (R37, R190). -/
def dmDecWord (s : State) (x : Int) : Reg :=
  resDecWord (dmTrig s x) (dmDecision s x).acc (dmDecision s x).rej (dmDecision s x).idx
    (dmDecision s x).sym

/-- The state an ungated DM.STEP leaves, in the order of R190 and R194: CL, then EL on one arm output,
then both delay buffers, then on a trigger the slicer and the differential decoder on the delayed
pair. -/
def dmStepState (s : State) (x : Int) : State :=
  let s1 := decisionState (dmDelayState s x) (dmTrig s x) (dmDelayedI s x) (dmDelayedQ s x)
  { s1 with res := { s1.res with dec := dmDecWord s x } }

/-- The response of an ungated DM.STEP (R190): TRK as it was before the step. -/
def dmStepResponse (s : State) (x : Int) : Response :=
  { trig := dmTrig s x
    acc := (dmDecision s x).acc
    rej := (dmDecision s x).rej
    trk := trk s
    sym := (dmDecision s x).sym
    idx := (dmDecision s x).idx
    data := pair16 (dmDelayedI s x) (dmDelayedQ s x) }

/-- DM.STEP x (R190): the READY checks in the order CL, EL, SD, DD, then DM_ELGSRC, then the burst
gate (R191), then the pipeline. -/
def execDmStep (x : Sample) (s : State) : Result :=
  if s.clRdy = false then raise (opcode (.dmStep x)) .notReady .cl 0#8 s
  else if s.elRdy = false then raise (opcode (.dmStep x)) .notReady .el 0#8 s
  else if s.sdRdy = false then raise (opcode (.dmStep x)) .notReady .sd 0#8 s
  else if s.ddRdy = false then raise (opcode (.dmStep x)) .notReady .dd 0#8 s
  else if s.cfg.dmElgSrc.toNat > 1 then raise (opcode (.dmStep x)) .paramError .dm 1#8 s
  else
    match s.bstate with
    | .reset => respond { gated := true } s
    | .demodulating =>
      if ¬ clSound s then .fault (.unsoundUnit .cl)
      else if ¬ elSound s then .fault (.unsoundUnit .el)
      else if ¬ sdSound s then .fault (.unsoundUnit .sd)
      else if ¬ ddSound s then .fault (.unsoundUnit .dd)
      else respond (dmStepResponse s (sampleOf x)) (dmStepState s (sampleOf x))

end Sys2Proof.Machine
end

