-- ==== Sys2Proof/Machine/Dispatch.lean ====
section
/-! DEFINITION. One arm per command, each one direct call of its meaning. -/

namespace Sys2Proof.Machine

def exec (i : Instr) (s : State) : Host.Outcome State Fault Refusal :=
  match i with
  | .nop => Sys2Proof.Machine.execNop s
  | .wrreg n v => Sys2Proof.Machine.execWrreg n v s
  | .rdreg n => Sys2Proof.Machine.execRdreg n s
  | .wrtab sel idx v => Sys2Proof.Machine.execWrtab sel idx v s
  | .rdtab sel idx => Sys2Proof.Machine.execRdtab sel idx s
  | .clInit => Sys2Proof.Machine.execClInit s
  | .clReset => Sys2Proof.Machine.execClReset s
  | .clStep x => Sys2Proof.Machine.execClStep x s
  | .elInit => Sys2Proof.Machine.execElInit s
  | .elReset => Sys2Proof.Machine.execElReset s
  | .elStep x => Sys2Proof.Machine.execElStep x s
  | .sdInit => Sys2Proof.Machine.execSdInit s
  | .sdReset => Sys2Proof.Machine.execSdReset s
  | .sdDelay b x => Sys2Proof.Machine.execSdDelay b x s
  | .ddInit => Sys2Proof.Machine.execDdInit s
  | .ddReset => Sys2Proof.Machine.execDdReset s
  | .ddSlice pi pq => Sys2Proof.Machine.execDdSlice pi pq s
  | .ddDiff cur => Sys2Proof.Machine.execDdDiff cur s
  | .dmStep x => Sys2Proof.Machine.execDmStep x s
  | .dmBurst p => Sys2Proof.Machine.execDmBurst p s
  | .dmReset => Sys2Proof.Machine.execDmReset s

end Sys2Proof.Machine
end

