-- ==== Sys2Proof/Machine/Port.lean ====
section
/-! DEFINITION. The block's inputs (spec/30_encoding.md R80): presenting a command word, and the
hardware reset (70_reset_and_hazards.md R240). -/

namespace Sys2Proof.Machine

/-- The command word whose low `nbits` bits are those of `w`, the others 0 (log 11). -/
def wordOfBits (nbits w : Nat) : Word := BitVec.ofNat 64 (w % 2 ^ nbits)

/-- The word stands first at the command port: the next step takes it (log 1, log 3). -/
def presentFirst (w : Word) (s : State) : State := { s with cmdPort := .command w :: s.cmdPort }

/-- Hardware reset between two commands (R240, log 4): every piece of the block's state is zero. The
responses already sent stay sent, and what the host presents next is its own. -/
def hardwareReset (s : State) : State :=
  { State.reset with cmdPort := s.cmdPort, rspPort := s.rspPort }

end Sys2Proof.Machine
end

