-- ==== Sys2Proof/Machine/Step.lean ====
section
/-! DEFINITION. The block's step (spec/30_encoding.md R80, R88): take the next input of the port; a
command word is decoded and its rule run, a word that is no command raises ILLEGAL_COMMAND (R85), a
reset pulse resets; with nothing presented the block holds its state (60_exceptions.md R225). -/

namespace Sys2Proof.Machine

/-- What the block does with the word it has just taken (R88). -/
def runWord (w : Word) (s : State) : Host.Outcome State Fault Refusal :=
  match decode w with
  | .ok i => exec i s
  | .error _ => illegalCommand w s

/-- One step: one input of the port. -/
def step (s : State) : Host.Outcome State Fault Refusal :=
  match s.cmdPort with
  | [] => .next s
  | .command w :: rest => runWord w { s with cmdPort := rest }
  | .rst :: rest => .next (hardwareReset { s with cmdPort := rest })

/-- `s` with that word presented first at the command port, so that the very next step runs it. -/
def State.withFetchWord (s : State) (nbits w : Nat) : State := presentFirst (wordOfBits nbits w) s

end Sys2Proof.Machine
end

