-- ==== Sys2Proof/Safety.lean ====
section
/-! DEFINITION. What claims call a good state and a safe run: the clauses of spec/10_state.md R39
that are not already the types of State, the bounds of 41_costas.md R122 and 42_elg.md R142 (a), the
sliding-sum equation of R135, and a run that never stops (60_exceptions.md R219). -/

namespace Sys2Proof.Machine

/-- R39 (a) to (e): every READY unit is sound. -/
abbrev readySound (s : State) : Prop :=
  (s.clRdy = true → clSound s) ∧ (s.elRdy = true → elSound s)
    ∧ (s.sdRdy = true → sdSound s) ∧ (s.ddRdy = true → ddSound s)

/-- R39 (f): TRIGUPD = 1 implies TRIGDET = 1. -/
abbrev trigUpdSound (s : State) : Prop := s.el.trigUpd = true → s.el.trigDet = true

/-- R30, R122: CL_FB is within -65536 to 65536. -/
abbrev fbInRange (s : State) : Prop := -65536 ≤ s.cl.fb.toInt ∧ s.cl.fb.toInt ≤ 65536

/-- `v` lies within -b to b. -/
abbrev within (b v : Int) : Prop := -b ≤ v ∧ v ≤ b

/-- R142 (a): |EL_MFSUM| <= 2^23, every entry of EGB and of TLB within 2^23, |EL_ZCPREV| <= 255 * 2^23. -/
def elBounded (s : State) : Prop :=
  within (2 ^ 23) s.el.mfSum.toInt ∧ (∀ i : Nat, within (2 ^ 23) (tabGet s.el.egb i).toInt)
    ∧ (∀ i : Nat, within (2 ^ 23) (tabGet s.el.tlb i).toInt)
    ∧ within (255 * 2 ^ 23) s.el.zcPrev.toInt

/-- R135: of a READY EL in SQUARE mode, EL_MFSUM is the sum of MFB[0] to MFB[S - 1]. -/
def slidingSum (s : State) : Prop :=
  s.elRdy = true → s.cfg.elMfShape.toNat = 0 →
    s.el.mfSum.toInt = sumTo s.cfg.elSymLen.toNat fun i => (tabGet s.el.mfb i).toInt

/-- Everything R39, R122, R135 and R142 (a) say of a reachable state, together with Memory.wf, the
tables' canonical form, which is the model's own (log 6). -/
def saneState (s : State) : Prop :=
  Memory.wf s = true ∧ readySound s ∧ trigUpdSound s ∧ fbInRange s ∧ elBounded s ∧ slidingSum s

/-- The state after hardware reset with the host's inputs presented at the port. -/
def afterResetWith (inputs : List PortInput) : State := { State.reset with cmdPort := inputs }

/-- `n` steps from `s` meet no fault and no refusal. -/
def safeRun (n : Nat) (s : State) : Prop := ∃ t : State, Sys2Proof.core.run n s = .next t

end Sys2Proof.Machine
end

