-- ==== Sys2Proof/Certificates/Slice0/Obligations.lean ====
section
/-! DEFINITION. The statements for the provers, spread over the rules of spec/. Words, codes and
formulas stand here as the spec prints them, over natural numbers and integers, and not through the
model's own packing functions. -/

namespace Sys2Proof.Statements

open Sys2Proof.Machine

/-- The command word with these four fields (R81): op at bit 56, t at bit 48, a at bit 32, d at 0.
-/
def cmdWord (op t a d : Nat) : Word := BitVec.ofNat 64 (op * 2 ^ 56 + t * 2 ^ 48 + a * 2 ^ 32 + d)

/-- `v` clamped to lo .. hi (R11, satN with its bounds written out). -/
def clamp (lo hi v : Int) : Int := max lo (min v hi)

/-- The bit 1 or 0. -/
def bit (b : Bool) : Nat := if b then 1 else 0

/-- The response word of a completed command (R86): FSEP, TRK, GATED, REJ, ACC, TRIG, SYM, IDX, DATA
at bits 53, 52, 51, 50, 49, 48, 40, 32, 0. -/
def okWord (fsep trk gated rej acc trig : Bool) (sym idx data : Nat) : Word :=
  BitVec.ofNat 64
    (bit fsep * 2 ^ 53 + bit trk * 2 ^ 52 + bit gated * 2 ^ 51 + bit rej * 2 ^ 50
      + bit acc * 2 ^ 49 + bit trig * 2 ^ 48 + sym * 2 ^ 40 + idx * 2 ^ 32 + data)

/-- The response word whose only field is DATA. -/
def dataWord (data : Nat) : Word := BitVec.ofNat 64 data

/-- The response word of a failing command (R87): the code in RSP[63:60], every other bit 0. -/
def errWord (code : Nat) : Word := BitVec.ofNat 64 (code * 2 ^ 60)

/-- LASTERR of a failing command (R211): E | (unit << 4) | (check << 8) | (opcode << 24). -/
def errRecord (op code unit check : Nat) : Reg :=
  BitVec.ofNat 32 (code + unit * 2 ^ 4 + check * 2 ^ 8 + op * 2 ^ 24)

/-- `s` after one more response word. -/
def replied (s : State) (w : Word) : State := { s with rspPort := s.rspPort ++ [w] }

/-- `s` after a command with opcode `op` failed with this code, unit and check id (R211). -/
def failed (s : State) (op code unit check : Nat) : State :=
  { s with lastErr := errRecord op code unit check, rspPort := s.rspPort ++ [errWord code] }

/-- The register numbers of R25. -/
def configNumbers : List Nat :=
  [0x00, 0x01, 0x02, 0x03, 0x04, 0x05, 0x06, 0x07, 0x10, 0x11, 0x12, 0x13, 0x14, 0x15, 0x20, 0x30,
    0x31, 0x38]

/-- The configuration registers by number (R25), as read from the state. -/
def configValues (s : State) : List (Nat × Reg) := [
  (0x00, s.cfg.clVcoSize), (0x01, s.cfg.clArmLen), (0x02, s.cfg.clAlpha), (0x03, s.cfg.clCpi),
  (0x04, s.cfg.clMiAcq), (0x05, s.cfg.clMiTrk), (0x06, s.cfg.clNtrack), (0x07, s.cfg.clFbMode),
  (0x10, s.cfg.elSymLen), (0x11, s.cfg.elMfShape), (0x12, s.cfg.elEgLen), (0x13, s.cfg.elTlLen),
  (0x14, s.cfg.elThr), (0x15, s.cfg.elTmode), (0x20, s.cfg.sdLen), (0x30, s.cfg.ddM),
  (0x31, s.cfg.ddMagThr), (0x38, s.cfg.dmElgSrc)]

/-- STATUS as a number (R28), with TRK by R36. -/
def statusNumber (s : State) : Nat :=
  bit s.clRdy + bit s.elRdy * 2 + bit s.sdRdy * 4 + bit s.ddRdy * 8
    + bit (decide (s.bstate = .demodulating)) * 16
    + bit (decide (s.cfg.clNtrack.toNat ≤ s.dd.decCnt.toNat)) * 32

/-- The status registers by number (R38) with the 32-bit pattern RDREG gives (R102). -/
def statusValues (s : State) : List (Nat × Reg) := [
  (0x40, BitVec.ofNat 32 (statusNumber s)), (0x41, s.lastErr),
  (0x42, s.cl.ph), (0x43, s.cl.lf), (0x44, s.cl.fb),
  (0x45, BitVec.ofNat 32 s.cl.aixI.toNat), (0x46, BitVec.ofNat 32 s.cl.aixQ.toNat),
  (0x50, BitVec.ofNat 32 s.el.mfIx.toNat), (0x51, s.el.mfSum),
  (0x52, BitVec.ofNat 32 s.el.egIx.toNat), (0x53, BitVec.ofNat 32 s.el.tlIx.toNat),
  (0x54, s.el.zcPrev),
  (0x55, BitVec.ofNat 32 (bit s.el.pulse + bit s.el.trigDet * 2 + bit s.el.trigUpd * 4)),
  (0x56, BitVec.ofNat 32 s.el.trigCnt.toNat), (0x57, BitVec.ofNat 32 s.trigLat.toNat),
  (0x60, BitVec.ofNat 32 s.sd.ix0.toNat), (0x61, BitVec.ofNat 32 s.sd.ix1.toNat),
  (0x70, BitVec.ofNat 32 s.dd.prev.toNat), (0x71, BitVec.ofNat 32 s.dd.decCnt.toNat),
  (0x78, s.res.iq), (0x79, s.res.diq), (0x7A, s.res.dec)]

/-- The selectors of R61 with their tables and capacities. -/
def tableMap : List (Nat × TableId × Nat) := [
  (0, .vcot, 1024), (1, .armc, 255), (2, .mfc, 256), (3, .tlc, 255), (4, .const, 64),
  (5, .delta, 64), (8, .armi, 255), (9, .armq, 255), (10, .mfb, 256), (11, .egb, 256),
  (12, .tlb, 255), (13, .sdb0, 1024), (14, .sdb1, 1024)]

/-- The 32-bit value of entry k of a table (R62, R104): s16 and s32 entries sign-extended, CONST the
pair (ci, cq) with ci in the high half, DELTA zero-extended. -/
def entryPattern (s : State) (t : TableId) (k : Nat) : Reg :=
  match t with
  | .vcot => BitVec.ofInt 32 (tabGet s.host.vcot k).toInt
  | .armc => BitVec.ofInt 32 (tabGet s.host.armc k).toInt
  | .mfc => BitVec.ofInt 32 (tabGet s.host.mfc k).toInt
  | .tlc => BitVec.ofInt 32 (tabGet s.host.tlc k).toInt
  | .const => tabGet s.host.const k
  | .delta => BitVec.ofNat 32 (tabGet s.host.delta k).toNat
  | .armi => BitVec.ofInt 32 (tabGet s.cl.armi k).toInt
  | .armq => BitVec.ofInt 32 (tabGet s.cl.armq k).toInt
  | .mfb => BitVec.ofInt 32 (tabGet s.el.mfb k).toInt
  | .egb => BitVec.ofInt 32 (tabGet s.el.egb k).toInt
  | .tlb => BitVec.ofInt 32 (tabGet s.el.tlb k).toInt
  | .sdb0 => BitVec.ofInt 32 (tabGet s.sd.sdb0 k).toInt
  | .sdb1 => BitVec.ofInt 32 (tabGet s.sd.sdb1 k).toInt

/-- What a table of the host reads back at an entry where datum `d` was written (R62). -/
def storedDatum (t : TableId) (d : Reg) : Reg :=
  if t = .const then d
  else if t = .delta then BitVec.ofNat 32 (d.toNat % 2 ^ 8)
  else BitVec.ofInt 32 (lo16 d).toInt

/-- Two outcomes that agree but for LASTERR (R241). -/
def sameButLastErr : Result → Result → Prop
  | .next t, .next t' => { t' with lastErr := t.lastErr } = t
  | .fault f, .fault f' => f = f'
  | .refused r, .refused r' => r = r'
  | .next _, .fault _ => False
  | .next _, .refused _ => False
  | .fault _, .next _ => False
  | .fault _, .refused _ => False
  | .refused _, .next _ => False
  | .refused _, .fault _ => False

/-- The exact sum of products of a FIR filter of `len` taps (R115, R135, R138) whose newest sample
`new` has just been written at index `ix` over the old line: tap k multiplies the sample written k
steps ago. -/
def firOf (len : Nat) (coef : Nat → Int) (old : Nat → Int) (ix : Nat) (new : Int) : Int :=
  ((List.range len).map fun k =>
    coef k * (if k = 0 then new else old (((ix : Int) - (k : Int)) % (len : Int)).toNat)).sum

/-- Feed `SdDelay(b, .)` the samples in order and collect what it returns. -/
def feedDelay (len : Nat) (sd : SdState) (b : Buffer) : List Int → List Int
  | [] => []
  | x :: rest => sdOut sd b :: feedDelay len (sdPush len sd b x) b rest

/-- The triggers of a running reverberator over a sequence of qualifying crossings, from count
`cnt` and TRIGUPD `upd`. -/
def triggersOf (len : Nat) (cnt : Nat) (upd : Bool) : List Bool → List Bool
  | [] => []
  | q :: rest =>
    (reverberate len q true upd cnt).trig
      :: triggersOf len (reverberate len q true upd cnt).cnt (reverberate len q true upd cnt).upd rest

end Sys2Proof.Statements

open Sys2Proof Sys2Proof.Machine Sys2Proof.Statements

/-! ### Encoding -/

/-- R91: the worked encodings, one per format, in both directions, and their illegal neighbours. -/
def Obligations.WorkedEncodingsDecode : Prop :=
  (decode 0x0000000000000000#64 = .ok .nop ∧ encode .nop = 0x0000000000000000#64)
  ∧ (decode 0x0100000100000009#64 = .ok (.wrreg 0x01#8 9#32)
      ∧ encode (.wrreg 0x01#8 9#32) = 0x0100000100000009#64)
  ∧ (decode 0x0200005700000000#64 = .ok (.rdreg 0x57#8)
      ∧ encode (.rdreg 0x57#8) = 0x0200005700000000#64)
  ∧ (decode 0x0300000200008001#64 = .ok (.wrtab 0#8 2#16 0x8001#32)
      ∧ encode (.wrtab 0#8 2#16 0x8001#32) = 0x0300000200008001#64)
  ∧ (decode 0x03040001F0001000#64 = .ok (.wrtab 4#8 1#16 0xF0001000#32)
      ∧ encode (.wrtab 4#8 1#16 0xF0001000#32) = 0x03040001F0001000#64)
  ∧ (decode 0x040B000300000000#64 = .ok (.rdtab 0x0B#8 3#16)
      ∧ encode (.rdtab 0x0B#8 3#16) = 0x040B000300000000#64)
  ∧ (decode 0x120000000000E000#64 = .ok (.clStep (BitVec.ofInt 16 (-8192)))
      ∧ encode (.clStep (BitVec.ofInt 16 (-8192))) = 0x120000000000E000#64)
  ∧ (decode 0x3201000000000064#64 = .ok (.sdDelay .sdb1 100#16)
      ∧ encode (.sdDelay .sdb1 100#16) = 0x3201000000000064#64)
  ∧ (decode 0x420000000FA0EFFC#64 = .ok (.ddSlice 4000#16 (BitVec.ofInt 16 (-4100)))
      ∧ encode (.ddSlice 4000#16 (BitVec.ofInt 16 (-4100))) = 0x420000000FA0EFFC#64)
  ∧ (decode 0x4300000000000002#64 = .ok (.ddDiff 2#6)
      ∧ encode (.ddDiff 2#6) = 0x4300000000000002#64)
  ∧ (decode 0x5100000000000001#64 = .ok (.dmBurst true)
      ∧ encode (.dmBurst true) = 0x5100000000000001#64)
  ∧ decode 0x0100010100000009#64 = .error (.mbzBitSet 0x01#8)
  ∧ decode 0x1200000000010000#64 = .error (.mbzBitSet 0x12#8)
  ∧ decode 0x3202000000000064#64 = .error (.mbzBitSet 0x32#8)
  ∧ decode 0x0500000000000000#64 = .error (.unassignedOpcode 0x05#8)

/-- R81 to R84: the decoder gives back every instruction the encoder wrote, at every operand. -/
def Obligations.DecodeOfEncodeIsTheCommand : Prop :=
  ∀ i : Instr, i.wellFormed = true → decode (encode i) = .ok i

/-- R81 to R84: a word that decodes is the encoding of what it decodes to, so the decoder drops no
bit and accepts no word twice. -/
def Obligations.EncodeOfDecodeIsTheWord : Prop :=
  ∀ (w : Word) (i : Instr), decode w = .ok i → encode i = w

/-- R84, R88: a word decodes to a command exactly when (W AND mask) = match for a row of the opcode
map, and the command is the one of that row. -/
def Obligations.DecodeAcceptsExactlyTheMappedWords : Prop :=
  ∀ w : Word,
    ((∃ i, decode w = .ok i) ↔ ∃ r ∈ opcodeMap, w &&& r.mask = r.pattern)
    ∧ ∀ i, decode w = .ok i → ∀ r ∈ opcodeMap, w &&& r.mask = r.pattern → r.mnemonic = mnemonicOf i

/-- R84: at most one row matches a word. -/
def Obligations.AtMostOneRowMatches : Prop :=
  ∀ w : Word, ∀ r ∈ opcodeMap, ∀ r' ∈ opcodeMap,
    w &&& r.mask = r.pattern → w &&& r'.mask = r'.pattern → r = r'

/-! ### The step -/

/-- R88: when the first word at the command port decodes to a command, the step takes the word off
the port and is that command's `exec`. The port is the model's own form (log 1). -/
def Obligations.StepRunsDecodedCommand : Prop :=
  ∀ (s : State) (w : Word) (rest : List PortInput) (i : Instr),
    s.cmdPort = .command w :: rest → decode w = .ok i → step s = exec i { s with cmdPort := rest }

/-- R85, R211: a word that matches no row of the opcode map raises ILLEGAL_COMMAND: LASTERR gets
code 1, unit 0, check 0 and the word's top byte, the response is the code, nothing else changes, and
the block goes on to the next command. -/
def Obligations.IllegalWordRaisesIllegalCommand : Prop :=
  ∀ (s : State) (w : Word) (rest : List PortInput),
    s.cmdPort = .command w :: rest → (∀ r ∈ opcodeMap, w &&& r.mask ≠ r.pattern) →
    step s = .next (failed { s with cmdPort := rest } (w.toNat / 2 ^ 56) 1 0 0)

/-- R41: after hardware reset every register of R25 and R38 reads 0 but STATUS, whose TRK bit is 1
(0 >= 0), every READY flag is 0, BSTATE is RESET, and every entry of every table is 0. -/
def Obligations.ResetStateIsAllZero : Prop :=
  (∀ p ∈ configValues State.reset, p.2 = 0#32)
  ∧ (∀ p ∈ statusValues State.reset, p.2 = if p.1 = 0x40 then 0x20#32 else 0#32)
  ∧ (State.reset.clRdy = false ∧ State.reset.elRdy = false ∧ State.reset.sdRdy = false
      ∧ State.reset.ddRdy = false)
  ∧ State.reset.bstate = .reset
  ∧ ∀ p ∈ tableMap, ∀ k : Nat, entryPattern State.reset p.2.1 k = 0#32

/-- R240: the `rst` input puts the block in the reset state, whatever state it was in. The input's
place in the command port, and the responses already sent staying sent, are the model's own form
(log 2, log 4). -/
def Obligations.HardwareResetGivesTheResetState : Prop :=
  ∀ (s : State) (rest : List PortInput), s.cmdPort = .rst :: rest →
    step s = .next { State.reset with cmdPort := rest, rspPort := s.rspPort }

/-- R225: between commands the block holds its state. -/
def Obligations.IdleBlockHoldsItsState : Prop := ∀ s : State, s.cmdPort = [] → step s = .next s

/-- R80: a command that ends produces exactly one response and takes nothing from the port. -/
def Obligations.OneResponsePerCommand : Prop :=
  ∀ (i : Instr) (s t : State), exec i s = .next t →
    (∃ w, t.rspPort = s.rspPort ++ [w]) ∧ t.cmdPort = s.cmdPort

/-- R29, R87, R211: a response either has ERR = 0 and LASTERR stays, or it is a code from 1 to 6
with every other bit 0, and LASTERR holds that code in bits [3:0], zero in bits [23:16] and the
command's opcode byte in bits [31:24]. -/
def Obligations.LastErrRecordsExactlyTheFailures : Prop :=
  ∀ (i : Instr) (s t : State) (w : Word), exec i s = .next t → t.rspPort = s.rspPort ++ [w] →
    (w.toNat / 2 ^ 60 = 0 ∧ t.lastErr = s.lastErr)
    ∨ (1 ≤ w.toNat / 2 ^ 60 ∧ w.toNat / 2 ^ 60 ≤ 6 ∧ w.toNat % 2 ^ 60 = 0
        ∧ t.lastErr.toNat % 16 = w.toNat / 2 ^ 60
        ∧ t.lastErr.toNat / 2 ^ 16 % 2 ^ 8 = 0
        ∧ t.lastErr.toNat / 2 ^ 24 = (opcode i).toNat)

/-- R211: errors are precise: a failing command changes LASTERR, and an INIT its own READY flag to
0, and nothing else. -/
def Obligations.FailingCommandsArePrecise : Prop :=
  ∀ (i : Instr) (s t : State) (w : Word), exec i s = .next t → t.rspPort = s.rspPort ++ [w] →
    w.toNat / 2 ^ 60 ≠ 0 →
    t = { s with
          lastErr := t.lastErr
          rspPort := t.rspPort
          clRdy := if i = .clInit then false else s.clRdy
          elRdy := if i = .elInit then false else s.elRdy
          sdRdy := if i = .sdInit then false else s.sdRdy
          ddRdy := if i = .ddInit then false else s.ddRdy }

/-! ### The whole machine -/

/-- R27: the READY flags are written by the four INIT commands, each its own, and by WRREG, which
only clears; no other command writes one. -/
def Obligations.ReadyFlagsOnlyByInitAndWrreg : Prop :=
  ∀ (i : Instr) (s t : State), exec i s = .next t →
    (t.clRdy ≠ s.clRdy → i = .clInit ∨ (t.clRdy = false ∧ ∃ n v, i = .wrreg n v))
    ∧ (t.elRdy ≠ s.elRdy → i = .elInit ∨ (t.elRdy = false ∧ ∃ n v, i = .wrreg n v))
    ∧ (t.sdRdy ≠ s.sdRdy → i = .sdInit ∨ (t.sdRdy = false ∧ ∃ n v, i = .wrreg n v))
    ∧ (t.ddRdy ≠ s.ddRdy → i = .ddInit ∨ (t.ddRdy = false ∧ ∃ n v, i = .wrreg n v))

/-- R24, R64: only WRREG writes a configuration register and only WRTAB a host table: no step, INIT
or RESET command writes VCOT, ARMC, MFC, TLC, CONST or DELTA. -/
def Obligations.ConfigAndHostTablesOnlyByWrites : Prop :=
  ∀ (i : Instr) (s t : State), exec i s = .next t →
    ((∀ n v, i ≠ .wrreg n v) → t.cfg = s.cfg) ∧ ((∀ sel k v, i ≠ .wrtab sel k v) → t.host = s.host)

/-- R31, R35: BSTATE is written by DM.BURST and DM.RESET only, and EL_TRIGLAT by EL.INIT only. -/
def Obligations.BurstStateAndLatencyWriters : Prop :=
  ∀ (i : Instr) (s t : State), exec i s = .next t →
    ((∀ p, i ≠ .dmBurst p) → i ≠ .dmReset → t.bstate = s.bstate)
    ∧ (i ≠ .elInit → t.trigLat = s.trigLat)

/-- R39, R41: the state after hardware reset meets every clause of the invariants below. The clause
Memory.wf among them, the tables' canonical form, is the model's own (log 6), no rule of the spec.
-/
def Obligations.ResetStateIsSane : Prop := saneState State.reset

/-- R39 (a) to (e): a step keeps a READY unit's configuration legal and its indices inside the
lengths in use. -/
def Obligations.ReadyUnitsStaySound : Prop :=
  ∀ s t : State, readySound s → step s = .next t → readySound t

/-- Log 6: every step keeps all thirteen tables in canonical form, inside the capacities of R61. -/
def Obligations.TablesStayCanonical : Prop :=
  ∀ s t : State, Memory.wf s = true → step s = .next t → Memory.wf t = true

/-- R39, R122, R135, R142 (a): a step keeps the whole invariant: sound READY units, TRIGUPD only
with TRIGDET, CL_FB, EL_MFSUM, EGB, TLB and EL_ZCPREV in their ranges, and in SQUARE mode EL_MFSUM
the sum of the delay line; and with these the clause Memory.wf, the tables' canonical form, which is
the model's own (log 6), no rule of the spec. -/
def Obligations.SaneStatesStaySane : Prop :=
  ∀ s t : State, saneState s → step s = .next t → saneState t

/-- R219: nothing stops the block in a state that R39 allows. -/
def Obligations.SoundBlockNeverStops : Prop := ∀ s : State, readySound s → ∃ t, step s = .next t

/-- R39, log 5: a READY unit outside R39 stops a step command of that unit, by name; R39 says no
reachable state is one. -/
def Obligations.UnsoundUnitStopsByName : Prop :=
  ∀ (s : State) (x pi pq : Sample) (b : Buffer) (cur : BitVec 6),
    (s.clRdy = true → ¬ clSound s → exec (.clStep x) s = .fault (.unsoundUnit .cl))
    ∧ (s.elRdy = true → ¬ elSound s → exec (.elStep x) s = .fault (.unsoundUnit .el))
    ∧ (s.sdRdy = true → ¬ sdSound s → exec (.sdDelay b x) s = .fault (.unsoundUnit .sd))
    ∧ (s.ddRdy = true → ¬ ddSound s → exec (.ddSlice pi pq) s = .fault (.unsoundUnit .dd))
    ∧ (s.ddRdy = true → ¬ ddSound s → cur.toNat < s.cfg.ddM.toNat →
        exec (.ddDiff cur) s = .fault (.unsoundUnit .dd))

/-- R219, R221: from hardware reset, whatever the host presents, no run meets a fault or a refusal.
That the presented inputs wait in a list, that nothing runs from reset before them, and that a reset
pulse is one of them, are the model's own form (log 1, log 3, log 4). -/
def Obligations.NoRunFromResetStops : Prop :=
  ∀ (inputs : List PortInput) (n : Nat), safeRun n (afterResetWith inputs)

/-- R72, R80: from hardware reset, a run as long as the words the host presents takes all of them
and sends exactly one response each. The lists of presented words and of sent responses, and that
nothing runs from reset before those words, are the model's own form (log 1, log 2, log 3). -/
def Obligations.EveryWordIsAnswered : Prop :=
  ∀ words : List Word, ∃ t,
    Sys2Proof.core.run words.length (afterResetWith (words.map .command)) = .next t
      ∧ t.cmdPort = [] ∧ t.rspPort.length = words.length

/-- R241: no command but RDREG LASTERR reads LASTERR, so runs from two states that differ in LASTERR
alone stay equal in everything else, the responses included. -/
def Obligations.LastErrIsInvisible : Prop :=
  ∀ (n : Nat) (s : State) (e : Reg),
    (∀ w, PortInput.command w ∈ s.cmdPort → decode w ≠ .ok (.rdreg 0x41#8)) →
    sameButLastErr (Sys2Proof.core.run n s) (Sys2Proof.core.run n { s with lastErr := e })

/-- R241, reset idempotence: when all four units of s are READY (and sound, R39), DM.RESET leaves
exactly the state that the four INIT commands give from a reset block holding the same configuration
registers and host tables, in everything but LASTERR and the ports. -/
def Obligations.DmResetEqualsFreshInit : Prop :=
  ∀ s : State, s.clRdy = true → s.elRdy = true → s.sdRdy = true → s.ddRdy = true → readySound s →
    ∃ t s1 s2 s3 s0, exec .dmReset s = .next t
      ∧ exec .clInit { State.reset with cfg := s.cfg, host := s.host } = .next s1
      ∧ exec .elInit s1 = .next s2 ∧ exec .sdInit s2 = .next s3 ∧ exec .ddInit s3 = .next s0
      ∧ { t with lastErr := s0.lastErr, cmdPort := s0.cmdPort, rspPort := s0.rspPort } = s0

/-! ### Register and table access -/

/-- R100: NOP is the all-zero word, answers 0 and writes no state; a word with op 0x00 and any other
bit set is illegal. -/
def Obligations.NopOnlyAnswersZero : Prop :=
  encode .nop = cmdWord 0x00 0 0 0
  ∧ (∀ w : Word, w.toNat / 2 ^ 56 = 0x00 → w ≠ 0#64 → ∃ e, decode w = .error e)
  ∧ ∀ s : State, exec .nop s = .next (replied s (dataWord 0))

/-- R101, R26: WRREG n, v is op 0x01 with n in a[7:0] and v in d; to a configuration register stores
the datum whatever it is, leaves the other seventeen, clears the READY flag of the owner that the
number's range gives (none for 0x38), and changes nothing else; to any other number it raises
ADDR_ERROR, check 1. -/
def Obligations.WrregWritesOrRaises : Prop :=
  ∀ (n : BitVec 8) (v : Reg) (s : State),
    encode (.wrreg n v) = cmdWord 0x01 0 n.toNat v.toNat
    ∧ (n.toNat ∈ configNumbers →
      ∃ t, exec (.wrreg n v) s = .next t
        ∧ configValues t = (configValues s).map (fun p => (p.1, if p.1 = n.toNat then v else p.2))
        ∧ t = { s with
                cfg := t.cfg
                clRdy := s.clRdy && !decide (n.toNat ≤ 0x07)
                elRdy := s.elRdy && !decide (0x10 ≤ n.toNat ∧ n.toNat ≤ 0x15)
                sdRdy := s.sdRdy && !decide (n.toNat = 0x20)
                ddRdy := s.ddRdy && !decide (0x30 ≤ n.toNat ∧ n.toNat ≤ 0x31)
                rspPort := s.rspPort ++ [dataWord 0] })
    ∧ (n.toNat ∉ configNumbers → exec (.wrreg n v) s = .next (failed s 0x01 5 0 1))

/-- R102, R28: RDREG n is op 0x02 with n in a[7:0]; it answers the 32-bit pattern of every register
of R25 and R38 and writes no state; any other number raises ADDR_ERROR, check 1. -/
def Obligations.RdregAnswersOrRaises : Prop :=
  ∀ (n : BitVec 8) (s : State),
    encode (.rdreg n) = cmdWord 0x02 0 n.toNat 0
    ∧ (∀ v, (n.toNat, v) ∈ configValues s ++ statusValues s →
      exec (.rdreg n) s = .next (replied s (dataWord v.toNat)))
    ∧ (n.toNat ∉ (configValues s ++ statusValues s).map Prod.fst →
      exec (.rdreg n) s = .next (failed s 0x02 5 0 1))

/-- R103: WRTAB sel[i], v is op 0x03; to an entry inside a host table it stores the datum in that
table's format, leaves every other entry of every table and every other piece of state, and answers
0; for a selector that is not 0 to 5, whatever the index, it raises ADDR_ERROR check 2, and for an
index at or beyond the capacity check 3, and then nothing is written. -/
def Obligations.WrtabStoresOneEntryOrRaises : Prop :=
  ∀ (sel : BitVec 8) (idx : BitVec 16) (v : Reg) (s : State),
    encode (.wrtab sel idx v) = cmdWord 0x03 sel.toNat idx.toNat v.toNat
    ∧ (∀ id cap, (sel.toNat, id, cap) ∈ tableMap → sel.toNat ≤ 5 → idx.toNat < cap →
      ∃ t, exec (.wrtab sel idx v) s = .next t
        ∧ (∀ p ∈ tableMap, ∀ k : Nat, entryPattern t p.2.1 k =
            if p.2.1 = id ∧ k = idx.toNat then storedDatum id v else entryPattern s p.2.1 k)
        ∧ t = { s with host := t.host, rspPort := s.rspPort ++ [dataWord 0] })
    ∧ (5 < sel.toNat → exec (.wrtab sel idx v) s = .next (failed s 0x03 5 0 2))
    ∧ (∀ id cap, (sel.toNat, id, cap) ∈ tableMap → sel.toNat ≤ 5 → cap ≤ idx.toNat →
        exec (.wrtab sel idx v) s = .next (failed s 0x03 5 0 3))

/-- R104: RDTAB sel[i] is op 0x04; it answers the entry of every implemented table inside its
capacity and writes no state; an unimplemented selector raises ADDR_ERROR check 2, whatever the
index, and an index at or beyond the capacity check 3. -/
def Obligations.RdtabAnswersOrRaises : Prop :=
  ∀ (sel : BitVec 8) (idx : BitVec 16) (s : State),
    encode (.rdtab sel idx) = cmdWord 0x04 sel.toNat idx.toNat 0
    ∧ (∀ id cap, (sel.toNat, id, cap) ∈ tableMap →
      exec (.rdtab sel idx) s =
        if idx.toNat < cap then .next (replied s (dataWord (entryPattern s id idx.toNat).toNat))
        else .next (failed s 0x04 5 0 3))
    ∧ (sel.toNat ∉ tableMap.map Prod.fst →
        exec (.rdtab sel idx) s = .next (failed s 0x04 5 0 2))

/-! ### Initialise and reset -/

/-- R123, R133, R163, R176: each of the four clears, on every state, puts every dynamic register,
flag and index of its unit at 0 and every entry of its delay lines at 0, and leaves the rest of the
state unchanged, the READY flags and EL_TRIGLAT included. -/
def Obligations.ClearedUnitsAreAllZero : Prop :=
  ∀ s : State,
    ((clClear s).cl.ph = 0#32 ∧ (clClear s).cl.lf = 0#32 ∧ (clClear s).cl.fb = 0#32
      ∧ (clClear s).cl.aixI = 0#8 ∧ (clClear s).cl.aixQ = 0#8
      ∧ (∀ k : Nat, tabGet (clClear s).cl.armi k = 0#16 ∧ tabGet (clClear s).cl.armq k = 0#16)
      ∧ clClear s = { s with cl := (clClear s).cl })
    ∧ ((elClear s).el.mfIx = 0#9 ∧ (elClear s).el.mfSum = 0#32 ∧ (elClear s).el.egIx = 0#9
      ∧ (elClear s).el.tlIx = 0#8 ∧ (elClear s).el.zcPrev = 0#32 ∧ (elClear s).el.pulse = false
      ∧ (elClear s).el.trigDet = false ∧ (elClear s).el.trigUpd = false
      ∧ (elClear s).el.trigCnt = 0#9
      ∧ (∀ k : Nat, tabGet (elClear s).el.mfb k = 0#16 ∧ tabGet (elClear s).el.egb k = 0#32
        ∧ tabGet (elClear s).el.tlb k = 0#32)
      ∧ elClear s = { s with el := (elClear s).el })
    ∧ ((sdClear s).sd.ix0 = 0#10 ∧ (sdClear s).sd.ix1 = 0#10
      ∧ (∀ k : Nat, tabGet (sdClear s).sd.sdb0 k = 0#16 ∧ tabGet (sdClear s).sd.sdb1 k = 0#16)
      ∧ sdClear s = { s with sd := (sdClear s).sd })
    ∧ ((ddClear s).dd.prev = 0#6 ∧ (ddClear s).dd.decCnt = 0#16
      ∧ ddClear s = { s with dd := (ddClear s).dd })

/-- R110: CL.INIT is the bare op 0x10; the seven checks of CL.INIT in their order, the first failing
one reported with CL_RDY left 0 and nothing zeroed, and on success the cleared unit with CL_RDY = 1.
-/
def Obligations.ClInitChecksInOrder : Prop :=
  encode .clInit = cmdWord 0x10 0 0 0
  ∧ ∀ s : State,
    exec .clInit s = .next (
      let c := s.cfg
      let off := { s with clRdy := false }
      if c.clVcoSize.toNat = 0 then failed off 0x10 2 1 1
      else if 1024 < c.clVcoSize.toNat then failed off 0x10 4 1 2
      else if c.clArmLen.toNat % 2 = 0 then failed off 0x10 2 1 3
      else if 255 < c.clArmLen.toNat then failed off 0x10 4 1 4
      else if 0xFFFF < c.clAlpha.toNat then failed off 0x10 2 1 5
      else if 0xFFFF < c.clNtrack.toNat then failed off 0x10 2 1 6
      else if 2 < c.clFbMode.toNat then failed off 0x10 2 1 7
      else replied { s with clRdy := true, cl := ClState.zero } (dataWord 0))

/-- R130, R131: EL.INIT is the bare op 0x20; the eight checks of EL.INIT in their order, and on
success the cleared unit, the trigger latency in EL_TRIGLAT and in the response, and EL_RDY = 1. -/
def Obligations.ElInitChecksInOrder : Prop :=
  encode .elInit = cmdWord 0x20 0 0 0
  ∧ ∀ s : State,
    exec .elInit s = .next (
      let c := s.cfg
      let off := { s with elRdy := false }
      let lat := (c.elSymLen.toNat - 1) / 2 + (c.elEgLen.toNat + 1) / 2 + (c.elTlLen.toNat - 1) / 2
        + (if c.elTmode.toNat = 1 then c.elSymLen.toNat / 2 else 0)
      if c.elSymLen.toNat = 0 then failed off 0x20 2 2 1
      else if 256 < c.elSymLen.toNat then failed off 0x20 4 2 2
      else if c.elEgLen.toNat = 0 then failed off 0x20 2 2 3
      else if 256 < c.elEgLen.toNat then failed off 0x20 4 2 4
      else if c.elTlLen.toNat % 2 = 0 then failed off 0x20 2 2 5
      else if 255 < c.elTlLen.toNat then failed off 0x20 4 2 6
      else if 1 < c.elMfShape.toNat then failed off 0x20 2 2 7
      else if 1 < c.elTmode.toNat then failed off 0x20 2 2 8
      else replied { s with elRdy := true, el := ElState.zero, trigLat := BitVec.ofNat 10 lat }
        (dataWord lat))

/-- R160, R170: SD.INIT is the bare op 0x30 and DD.INIT the bare op 0x40; the two checks of SD.INIT
and of DD.INIT, and on success the cleared unit, READY. -/
def Obligations.SdAndDdInitChecksInOrder : Prop :=
  encode .sdInit = cmdWord 0x30 0 0 0 ∧ encode .ddInit = cmdWord 0x40 0 0 0
  ∧ ∀ s : State,
    exec .sdInit s = .next (
      if s.cfg.sdLen.toNat = 0 then failed { s with sdRdy := false } 0x30 2 3 1
      else if 1024 < s.cfg.sdLen.toNat then failed { s with sdRdy := false } 0x30 4 3 2
      else replied { s with sdRdy := true, sd := SdState.zero } (dataWord 0))
    ∧ exec .ddInit s = .next (
      if s.cfg.ddM.toNat = 0 then failed { s with ddRdy := false } 0x40 2 4 1
      else if 64 < s.cfg.ddM.toNat then failed { s with ddRdy := false } 0x40 4 4 2
      else replied { s with ddRdy := true, dd := DdState.zero } (dataWord 0))

/-- R131: for every legal configuration the trigger latency is from 1 to 510, so it fits EL_TRIGLAT.
-/
def Obligations.TriggerLatencyRange : Prop :=
  ∀ c : ConfigRegs, elLegal c → 1 ≤ trigLatency c ∧ trigLatency c ≤ 510

/-- R111, R132, R161, R171: each RESET command is a bare op, zeroes its own unit's dynamic state,
READY or not, answers 0 and touches nothing else. -/
def Obligations.UnitResetsClearTheirUnit : Prop :=
  (encode .clReset = cmdWord 0x11 0 0 0 ∧ encode .elReset = cmdWord 0x21 0 0 0
    ∧ encode .sdReset = cmdWord 0x31 0 0 0 ∧ encode .ddReset = cmdWord 0x41 0 0 0)
  ∧ ∀ s : State,
    exec .clReset s = .next (replied { s with cl := ClState.zero } (dataWord 0))
    ∧ exec .elReset s = .next (replied { s with el := ElState.zero } (dataWord 0))
    ∧ exec .sdReset s = .next (replied { s with sd := SdState.zero } (dataWord 0))
    ∧ exec .ddReset s = .next (replied { s with dd := DdState.zero } (dataWord 0))

/-- R27, R112, R134: a step command of a unit whose READY flag is 0 raises NOT_READY and changes
nothing else; CL.STEP x is op 0x12 and EL.STEP x op 0x22, each with x in d[15:0]. -/
def Obligations.StepCommandsNeedReady : Prop :=
  ∀ (s : State) (x pi pq : Sample) (b : Buffer) (cur : BitVec 6),
    (encode (.clStep x) = cmdWord 0x12 0 0 x.toNat ∧ encode (.elStep x) = cmdWord 0x22 0 0 x.toNat)
    ∧ (s.clRdy = false → exec (.clStep x) s = .next (failed s 0x12 3 1 0))
    ∧ (s.elRdy = false → exec (.elStep x) s = .next (failed s 0x22 3 2 0))
    ∧ (s.sdRdy = false → exec (.sdDelay b x) s = .next (failed s 0x32 3 3 0))
    ∧ (s.ddRdy = false → exec (.ddSlice pi pq) s = .next (failed s 0x42 3 4 0))
    ∧ (s.ddRdy = false → exec (.ddDiff cur) s = .next (failed s 0x43 3 4 0))

/-! ### The Costas loop -/

/-- R112 to R120: CL.STEP of a READY unit completes with every value the stages give, as exact
integers: the references from VCOT, the mixers, the arm filters over the delay lines after the
write, the detector of CL_FBMODE, the loop filter, the modulation index TRK selects and the phase
modulo one turn; the pair (I, Q) is in the response and in RES_IQ; nothing else changes. -/
def Obligations.ClStepComputesTheLoop : Prop :=
  ∀ (s : State) (x : Sample), s.clRdy = true → clSound s →
    let n := s.cfg.clVcoSize.toNat
    let len := s.cfg.clArmLen.toNat
    let ix := s.cl.aixI.toNat
    let cref := (tabGet s.host.vcot (s.cl.ph.toNat * n / 2 ^ 32)).toInt
    let qref := (tabGet s.host.vcot ((s.cl.ph.toNat + 0x40000000) % 2 ^ 32 * n / 2 ^ 32)).toInt
    let mi := clamp (-32768) 32767 (x.toInt * cref / 32768)
    let mq := clamp (-32768) 32767 (x.toInt * qref / 32768)
    let coef := fun k => (tabGet s.host.armc k).toInt
    let i := clamp (-32768) 32767
      (firOf len coef (fun k => (tabGet s.cl.armi k).toInt) ix mi / 32768)
    let q := clamp (-32768) 32767
      (firOf len coef (fun k => (tabGet s.cl.armq k).toInt) ix mq / 32768)
    let ev :=
      if s.cfg.clFbMode.toNat = 0 then i.sign * q
      else if s.cfg.clFbMode.toNat = 1 then i.sign * q.sign * 32768
      else i.sign * q - q.sign * i
    let lf := clamp (-2147483648) 2147483647
      (2 * ev + (s.cfg.clAlpha.toNat : Int) * s.cl.lf.toInt / 65536)
    let tracking := decide (s.cfg.clNtrack.toNat ≤ s.dd.decCnt.toNat)
    let mod := if tracking then s.cfg.clMiTrk.toInt else s.cfg.clMiAcq.toInt
    ∃ t, exec (.clStep x) s = .next t
      ∧ t.cl.fb.toInt = ev ∧ t.cl.lf.toInt = lf
      ∧ (t.cl.ph.toNat : Int) =
          ((s.cl.ph.toNat : Int) + (s.cfg.clCpi.toNat : Int) + mod * lf / 65536) % 2 ^ 32
      ∧ t.cl.aixI.toNat = (ix + 1) % len ∧ t.cl.aixQ.toNat = (ix + 1) % len
      ∧ (∀ k : Nat, (tabGet t.cl.armi k).toInt = if k = ix then mi else (tabGet s.cl.armi k).toInt)
      ∧ (∀ k : Nat, (tabGet t.cl.armq k).toInt = if k = ix then mq else (tabGet s.cl.armq k).toInt)
      ∧ (hi16 t.res.iq).toInt = i ∧ (lo16 t.res.iq).toInt = q
      ∧ t = { s with
              cl := t.cl
              res := { s.res with iq := t.res.iq }
              rspPort := s.rspPort ++
                [okWord false tracking false false false false 0 0 t.res.iq.toNat] }

/-- R113: for a phase in u32 and a table size N >= 1 the index is always in 0 to N - 1. -/
def Obligations.NcoIndexIsInsideTheTable : Prop :=
  ∀ (n : Nat) (p : BitVec 32), 1 ≤ n → vidx n p < n ∧ vidx n (p + 0x40000000#32) < n

/-- R114: the mixer saturates in exactly one case, sample and reference both -32768. -/
def Obligations.MixerSaturatesInOneCase : Prop :=
  ∀ x ref : Sample,
    mix x.toInt ref.toInt =
      if x.toInt = -32768 ∧ ref.toInt = -32768 then 32767 else x.toInt * ref.toInt / 32768

/-- R117 by inference (log 12): the ranges of the phase-error detector on s16 arm outputs. The lower
end of mode 0 is -32768, which R117's own formula and V12 give, not the -32767 its text prints. -/
def Obligations.PhaseErrorRanges : Prop :=
  ∀ i q : Sample,
    within 32768 (phaseError 0 i.toInt q.toInt)
    ∧ (phaseError 1 i.toInt q.toInt = -32768 ∨ phaseError 1 i.toInt q.toInt = 0
        ∨ phaseError 1 i.toInt q.toInt = 32768)
    ∧ within 65535 (phaseError 2 i.toInt q.toInt)

/-! ### The early-late gate -/

/-- R134 to R141: EL.STEP of a READY unit whose registers are in the ranges of R142 (a) completes
with every value the stages give, as exact integers: the matched filter in both shapes, the timing
error of the two gates, the timing loop filter over its line after the write, the pulse detector,
the zero-crossing qualifier and the reverberator; nothing else changes. -/
def Obligations.ElStepComputesTheGate : Prop :=
  ∀ (s : State) (x : Sample), s.elRdy = true → elSound s → elBounded s →
    let len := s.cfg.elSymLen.toNat
    let mix' := s.el.mfIx.toNat
    let old := (tabGet s.el.mfb mix').toInt
    let mf :=
      if s.cfg.elMfShape.toNat = 0 then s.el.mfSum.toInt + x.toInt - old
      else firOf len (fun k => (tabGet s.host.mfc k).toInt) (fun k => (tabGet s.el.mfb k).toInt) mix'
        x.toInt / 32768
    let te := |(tabGet s.el.egb s.el.egIx.toNat).toInt| - |mf|
    let lf := firOf s.cfg.elTlLen.toNat (fun k => (tabGet s.host.tlc k).toInt)
      (fun k => (tabGet s.el.tlb k).toInt) s.el.tlIx.toNat te / 32768
    let armed := s.el.pulse = true ∨ lf ≤ -(s.cfg.elThr.toNat : Int)
    let q := s.el.zcPrev.toInt < 0 ∧ 0 ≤ lf ∧ armed
    let c0 := s.el.trigCnt.toNat + 1
    let nudged := q ∧ s.el.trigUpd = false ∧ c0 ≠ len
    ∃ t trig, exec (.elStep x) s = .next t
      ∧ t.el.mfSum.toInt = mf ∧ t.el.zcPrev.toInt = lf
      ∧ t.el.mfIx.toNat = (mix' + 1) % len
      ∧ t.el.egIx.toNat = (s.el.egIx.toNat + 1) % s.cfg.elEgLen.toNat
      ∧ t.el.tlIx.toNat = (s.el.tlIx.toNat + 1) % s.cfg.elTlLen.toNat
      ∧ (∀ k : Nat, (tabGet t.el.mfb k).toInt =
          if k = mix' then x.toInt else (tabGet s.el.mfb k).toInt)
      ∧ (∀ k : Nat, (tabGet t.el.egb k).toInt =
          if k = s.el.egIx.toNat then mf else (tabGet s.el.egb k).toInt)
      ∧ (∀ k : Nat, (tabGet t.el.tlb k).toInt =
          if k = s.el.tlIx.toNat then te else (tabGet s.el.tlb k).toInt)
      ∧ (t.el.pulse = true ↔ armed ∧ ¬ q)
      ∧ (s.el.trigDet = false → ¬ q → trig = false ∧ t.el.trigDet = false
          ∧ t.el.trigUpd = s.el.trigUpd ∧ t.el.trigCnt = s.el.trigCnt)
      ∧ (s.el.trigDet = false → q → trig = true ∧ t.el.trigDet = true
          ∧ t.el.trigUpd = false ∧ t.el.trigCnt.toNat = 0)
      ∧ (s.el.trigDet = true → ∀ c : Nat,
          (nudged → 2 * c0 < len → c = c0 - 1) → (nudged → len ≤ 2 * c0 → c = c0 + 1) →
          (¬ nudged → c = c0) →
          t.el.trigDet = true
          ∧ (len ≤ c → trig = true ∧ t.el.trigUpd = false ∧ t.el.trigCnt.toNat = 0)
          ∧ (c < len → trig = false ∧ (t.el.trigUpd = true ↔ nudged ∨ s.el.trigUpd = true)
              ∧ t.el.trigCnt.toNat = c))
      ∧ t = { s with
              el := t.el
              rspPort := s.rspPort ++ [okWord false false false false false trig 0 0 0] }

/-- R142 (b): from a state in which neither the pulse flag nor the reverberator is set, a step whose
filtered timing error stays above -EL_THR emits no trigger and sets neither. -/
def Obligations.NoTriggerBelowThreshold : Prop :=
  ∀ (s t : State) (x : Sample), s.elRdy = true → elSound s → elBounded s →
    s.el.pulse = false → s.el.trigDet = false → exec (.elStep x) s = .next t →
    -(s.cfg.elThr.toNat : Int) < t.el.zcPrev.toInt →
    t.el.pulse = false ∧ t.el.trigDet = false ∧ t.rspPort = s.rspPort ++ [dataWord 0]

/-- R141: without further crossings the running reverberator emits exactly one trigger per S steps.
-/
def Obligations.ReverberatorFreeRuns : Prop :=
  ∀ (len n : Nat) (upd : Bool), 1 ≤ len →
    triggersOf len 0 upd (List.replicate n false) =
      (List.range n).map fun k => decide ((k + 1) % len = 0)

/-- R141: consecutive triggers are S - 1, S or S + 1 steps apart, never closer, whatever crossings
arrive: after a trigger, the first S - 2 steps emit none, and within S + 1 steps one is emitted. -/
def Obligations.TriggersAreNeverCloser : Prop :=
  ∀ (len : Nat) (qs : List Bool), 1 ≤ len → len + 1 ≤ qs.length →
    ∃ m, len - 1 ≤ m ∧ m ≤ len + 1 ∧ 1 ≤ m
      ∧ (triggersOf len 0 false qs)[m - 1]? = some true
      ∧ ∀ k < m - 1, (triggersOf len 0 false qs)[k]? = some false

/-! ### The sync delay buffers -/

/-- R162: SD.DELAY b, x is op 0x32 with b in t[0] and x in d[15:0]; of a READY unit it answers the
oldest entry, overwrites it with the sample and advances the index, and the other buffer and
everything else are untouched; of a unit not READY it raises NOT_READY and nothing else changes. -/
def Obligations.SdDelayReadsOldestWritesNewest : Prop :=
  (∀ x : Sample, encode (.sdDelay .sdb0 x) = cmdWord 0x32 0 0 x.toNat
    ∧ encode (.sdDelay .sdb1 x) = cmdWord 0x32 1 0 x.toNat)
  ∧ (∀ (s : State) (b : Buffer) (x : Sample), s.sdRdy = false →
      exec (.sdDelay b x) s = .next (failed s 0x32 3 3 0))
  ∧ ∀ (s : State) (x : Sample), s.sdRdy = true → sdSound s →
    (∃ t, exec (.sdDelay .sdb0 x) s = .next t
      ∧ (∀ k : Nat, tabGet t.sd.sdb0 k = if k = s.sd.ix0.toNat then x else tabGet s.sd.sdb0 k)
      ∧ t.sd.ix0.toNat = (s.sd.ix0.toNat + 1) % s.cfg.sdLen.toNat
      ∧ t = { s with
              sd := { s.sd with sdb0 := t.sd.sdb0, ix0 := t.sd.ix0 }
              rspPort := s.rspPort ++ [dataWord (tabGet s.sd.sdb0 s.sd.ix0.toNat).toNat] })
    ∧ (∃ t, exec (.sdDelay .sdb1 x) s = .next t
      ∧ (∀ k : Nat, tabGet t.sd.sdb1 k = if k = s.sd.ix1.toNat then x else tabGet s.sd.sdb1 k)
      ∧ t.sd.ix1.toNat = (s.sd.ix1.toNat + 1) % s.cfg.sdLen.toNat
      ∧ t = { s with
              sd := { s.sd with sdb1 := t.sd.sdb1, ix1 := t.sd.ix1 }
              rspPort := s.rspPort ++ [dataWord (tabGet s.sd.sdb1 s.sd.ix1.toNat).toNat] })

/-- R164 (a), the delay law: a cleared buffer of length n fed x[0], x[1], ... returns 0 for the
first n calls and x[m - n] at call m from then on. -/
def Obligations.DelayLaw : Prop :=
  ∀ (n : Nat) (b : Buffer) (xs : List Sample), 1 ≤ n → n ≤ 1024 →
    feedDelay n SdState.zero b (xs.map BitVec.toInt) =
      (List.range xs.length).map fun m => if m < n then 0 else (xs.getD (m - n) 0#16).toInt

/-! ### The decision unit -/

/-- R172 to R174: DD.SLICE I, Q is op 0x42 with I in d[31:16] and Q in d[15:0]; of a unit not READY
it raises NOT_READY and nothing else changes; of a READY unit it rejects, counting nothing, exactly
when I^2 + Q^2 is below DD_MAGTHR, and otherwise answers the first index below DD_M whose squared
distance is least and counts the decision, saturating at 65535; DD_PREV and everything else stay. -/
def Obligations.DdSliceAnswersTheNearestPoint : Prop :=
  (∀ pi pq : Sample, encode (.ddSlice pi pq) = cmdWord 0x42 0 0 (pi.toNat * 2 ^ 16 + pq.toNat))
  ∧ (∀ (s : State) (pi pq : Sample), s.ddRdy = false →
      exec (.ddSlice pi pq) s = .next (failed s 0x42 3 4 0))
  ∧ ∀ (s : State) (pi pq : Sample), s.ddRdy = true → ddSound s →
    let energy := pi.toInt * pi.toInt + pq.toInt * pq.toInt
    let dist := fun k => (pi.toInt - (hi16 (tabGet s.host.const k)).toInt) ^ 2
      + (pq.toInt - (lo16 (tabGet s.host.const k)).toInt) ^ 2
    (energy < (s.cfg.ddMagThr.toNat : Int) →
      exec (.ddSlice pi pq) s = .next (replied s (okWord false false false true false false 0 0xFF 0)))
    ∧ ((s.cfg.ddMagThr.toNat : Int) ≤ energy →
      ∃ (t : State) (k : Nat), exec (.ddSlice pi pq) s = .next t
        ∧ k < s.cfg.ddM.toNat ∧ (∀ j < s.cfg.ddM.toNat, dist k ≤ dist j)
        ∧ (∀ j < k, dist k < dist j)
        ∧ t.dd.decCnt.toNat = min (s.dd.decCnt.toNat + 1) 65535
        ∧ t = { s with
                dd := { s.dd with decCnt := t.dd.decCnt }
                rspPort := s.rspPort ++ [okWord false false false false true false 0 k 0] })

/-- R175: DD.DIFF cur is op 0x43 with cur in d[5:0]; of a unit not READY it raises NOT_READY and
nothing else changes; of a READY unit it answers the entry of DELTA at (cur - DD_PREV + M) mod M and
makes cur the previous index; an index not below DD_M raises OPERAND_ERROR and changes nothing else.
-/
def Obligations.DdDiffDecodesTheChange : Prop :=
  (∀ cur : BitVec 6, encode (.ddDiff cur) = cmdWord 0x43 0 0 cur.toNat)
  ∧ (∀ (s : State) (cur : BitVec 6), s.ddRdy = false →
      exec (.ddDiff cur) s = .next (failed s 0x43 3 4 0))
  ∧ ∀ (s : State) (cur : BitVec 6), s.ddRdy = true → ddSound s →
    (cur.toNat < s.cfg.ddM.toNat →
      exec (.ddDiff cur) s = .next (replied { s with dd := { s.dd with prev := cur } }
        (okWord false false false false false false
          (tabGet s.host.delta
            ((cur.toNat + s.cfg.ddM.toNat - s.dd.prev.toNat) % s.cfg.ddM.toNat)).toNat 0 0)))
    ∧ (s.cfg.ddM.toNat ≤ cur.toNat →
      exec (.ddDiff cur) s = .next (failed s 0x43 6 4 1))

/-- R177: rotating both the previous and the current index by r modulo M leaves the delta, so the
decoded symbol, unchanged. -/
def Obligations.RotationInvariance : Prop :=
  ∀ m prev cur r : Nat, prev < m → cur < m →
    diffDelta m ((prev + r) % m) ((cur + r) % m) = diffDelta m prev cur

/-! ### The demodulator pipeline -/

/-- R190, R215: DM.STEP x is op 0x50 with x in d[15:0]; its checks in their order, in either burst
state: the first unit not READY in the order CL, EL, SD, DD, then DM_ELGSRC; and, all passed, the
gate of BSTATE = RESET (R191), which changes nothing. -/
def Obligations.DmStepChecksThenGate : Prop :=
  ∀ (s : State) (x : Sample),
    encode (.dmStep x) = cmdWord 0x50 0 0 x.toNat
    ∧ (s.clRdy = false → exec (.dmStep x) s = .next (failed s 0x50 3 1 0))
    ∧ (s.clRdy = true → s.elRdy = false → exec (.dmStep x) s = .next (failed s 0x50 3 2 0))
    ∧ (s.clRdy = true → s.elRdy = true → s.sdRdy = false →
        exec (.dmStep x) s = .next (failed s 0x50 3 3 0))
    ∧ (s.clRdy = true → s.elRdy = true → s.sdRdy = true → s.ddRdy = false →
        exec (.dmStep x) s = .next (failed s 0x50 3 4 0))
    ∧ (s.clRdy = true → s.elRdy = true → s.sdRdy = true → s.ddRdy = true →
        1 < s.cfg.dmElgSrc.toNat → exec (.dmStep x) s = .next (failed s 0x50 2 5 1))
    ∧ (s.clRdy = true → s.elRdy = true → s.sdRdy = true → s.ddRdy = true →
        s.cfg.dmElgSrc.toNat ≤ 1 → s.bstate = .reset →
        exec (.dmStep x) s =
          .next (replied s (okWord false false true false false false 0 0 0)))

/-- R190, R194: an ungated DM.STEP is the unit commands run in order: CL.STEP on the sample, EL.STEP
on the arm output DM_ELGSRC selects, SD.DELAY on I and on Q, on a trigger DD.SLICE on the delayed
pair, and on an accepted decision DD.DIFF on its index. It leaves exactly the state they leave, with
RES_DIQ and RES_DEC written, and one response that joins theirs. -/
def Obligations.DmStepIsTheUnitsInOrder : Prop :=
  ∀ (s : State) (x : Sample),
    s.clRdy = true → s.elRdy = true → s.sdRdy = true → s.ddRdy = true → readySound s →
    s.cfg.dmElgSrc.toNat ≤ 1 → s.bstate = .demodulating →
    ∃ (s1 s2 s3 s4 s6 : State) (r2 r3 r4 : Word) (acc rej : Bool) (idx sym : Nat),
      exec (.clStep x) s = .next s1
      ∧ exec (.elStep (if s.cfg.dmElgSrc.toNat = 1 then lo16 s1.res.iq else hi16 s1.res.iq)) s1
          = .next s2
      ∧ s2.rspPort = s1.rspPort ++ [r2]
      ∧ exec (.sdDelay .sdb0 (hi16 s1.res.iq)) s2 = .next s3 ∧ s3.rspPort = s2.rspPort ++ [r3]
      ∧ exec (.sdDelay .sdb1 (lo16 s1.res.iq)) s3 = .next s4 ∧ s4.rspPort = s3.rspPort ++ [r4]
      ∧ (let trig := r2.getLsbD 48
         let dI : Sample := r3.extractLsb' 0 16
         let dQ : Sample := r4.extractLsb' 0 16
         (trig = false → s6 = s4 ∧ acc = false ∧ rej = false ∧ idx = 0xFF ∧ sym = 0)
         ∧ (trig = true → ∃ s5 r5, exec (.ddSlice dI dQ) s4 = .next s5
              ∧ s5.rspPort = s4.rspPort ++ [r5]
              ∧ acc = r5.getLsbD 49 ∧ rej = r5.getLsbD 50
              ∧ idx = r5.toNat / 2 ^ 32 % 2 ^ 8
              ∧ (acc = false → s6 = s5 ∧ sym = 0)
              ∧ (acc = true → ∃ r6, exec (.ddDiff (BitVec.ofNat 6 idx)) s5 = .next s6
                  ∧ s6.rspPort = s5.rspPort ++ [r6] ∧ sym = r6.toNat / 2 ^ 40 % 2 ^ 8))
         ∧ exec (.dmStep x) s = .next
            { s6 with
              res :=
                { iq := s1.res.iq
                  diq := dI ++ dQ
                  dec := BitVec.ofNat 32 (bit trig + bit acc * 2 + bit rej * 4 + idx * 2 ^ 8
                    + sym * 2 ^ 16) }
              rspPort := s.rspPort ++
                [okWord false (decide (s.cfg.clNtrack.toNat ≤ s.dd.decCnt.toNat)) false rej acc trig
                  sym idx (dI ++ dQ).toNat] })

/-- R193: DM.BURST p is op 0x51 with p in d[0]; its four cases: only leaving DEMODULATING flushes,
and it alone reports FSEP. -/
def Obligations.DmBurstFourCases : Prop :=
  (∀ p : Bool, encode (.dmBurst p) = cmdWord 0x51 0 0 (bit p))
  ∧ ∀ s : State,
    (s.bstate = .reset → exec (.dmBurst false) s = .next (replied s (dataWord 0))
      ∧ exec (.dmBurst true) s =
          .next (replied { s with bstate := .demodulating } (dataWord 1)))
    ∧ (s.bstate = .demodulating → exec (.dmBurst true) s = .next (replied s (dataWord 1))
      ∧ exec (.dmBurst false) s = .next (replied
          { s with
            cl := ClState.zero, el := ElState.zero, sd := SdState.zero, dd := DdState.zero
            res := Results.zero, bstate := .reset }
          (okWord true false false false false false 0 0 0)))

/-- R192: DM.RESET is the bare op 0x52; it clears the dynamic state of the four units and the result
registers, puts BSTATE to RESET, needs no READY flag, answers 0 and touches nothing else. -/
def Obligations.DmResetFlushes : Prop :=
  encode .dmReset = cmdWord 0x52 0 0 0
  ∧ ∀ s : State, exec .dmReset s = .next (replied
    { s with
      cl := ClState.zero, el := ElState.zero, sd := SdState.zero, dd := DdState.zero
      res := Results.zero, bstate := .reset }
    (dataWord 0))
end

