-- ==== Sys2Proof/Laws/State.lean ====
section
/-! SUPPORT. What each state update of the model leaves in each field of State: one lemma per field
per update, so that no later proof unfolds a record update. -/

namespace Sys2Proof.Machine


/-! ### send -/

@[simp] theorem send_cfg (r : Response) (s : State) :
    (send r s).cfg = s.cfg := rfl
@[simp] theorem send_host (r : Response) (s : State) :
    (send r s).host = s.host := rfl
@[simp] theorem send_clRdy (r : Response) (s : State) :
    (send r s).clRdy = s.clRdy := rfl
@[simp] theorem send_elRdy (r : Response) (s : State) :
    (send r s).elRdy = s.elRdy := rfl
@[simp] theorem send_sdRdy (r : Response) (s : State) :
    (send r s).sdRdy = s.sdRdy := rfl
@[simp] theorem send_ddRdy (r : Response) (s : State) :
    (send r s).ddRdy = s.ddRdy := rfl
@[simp] theorem send_lastErr (r : Response) (s : State) :
    (send r s).lastErr = s.lastErr := rfl
@[simp] theorem send_cl (r : Response) (s : State) :
    (send r s).cl = s.cl := rfl
@[simp] theorem send_el (r : Response) (s : State) :
    (send r s).el = s.el := rfl
@[simp] theorem send_trigLat (r : Response) (s : State) :
    (send r s).trigLat = s.trigLat := rfl
@[simp] theorem send_sd (r : Response) (s : State) :
    (send r s).sd = s.sd := rfl
@[simp] theorem send_dd (r : Response) (s : State) :
    (send r s).dd = s.dd := rfl
@[simp] theorem send_bstate (r : Response) (s : State) :
    (send r s).bstate = s.bstate := rfl
@[simp] theorem send_res (r : Response) (s : State) :
    (send r s).res = s.res := rfl
@[simp] theorem send_cmdPort (r : Response) (s : State) :
    (send r s).cmdPort = s.cmdPort := rfl
@[simp] theorem send_rspPort (r : Response) (s : State) :
    (send r s).rspPort = s.rspPort ++ [packResponse r] := rfl

/-! ### clClear -/

@[simp] theorem clClear_cfg (s : State) :
    (clClear s).cfg = s.cfg := rfl
@[simp] theorem clClear_host (s : State) :
    (clClear s).host = s.host := rfl
@[simp] theorem clClear_clRdy (s : State) :
    (clClear s).clRdy = s.clRdy := rfl
@[simp] theorem clClear_elRdy (s : State) :
    (clClear s).elRdy = s.elRdy := rfl
@[simp] theorem clClear_sdRdy (s : State) :
    (clClear s).sdRdy = s.sdRdy := rfl
@[simp] theorem clClear_ddRdy (s : State) :
    (clClear s).ddRdy = s.ddRdy := rfl
@[simp] theorem clClear_lastErr (s : State) :
    (clClear s).lastErr = s.lastErr := rfl
@[simp] theorem clClear_cl (s : State) :
    (clClear s).cl = ClState.zero := rfl
@[simp] theorem clClear_el (s : State) :
    (clClear s).el = s.el := rfl
@[simp] theorem clClear_trigLat (s : State) :
    (clClear s).trigLat = s.trigLat := rfl
@[simp] theorem clClear_sd (s : State) :
    (clClear s).sd = s.sd := rfl
@[simp] theorem clClear_dd (s : State) :
    (clClear s).dd = s.dd := rfl
@[simp] theorem clClear_bstate (s : State) :
    (clClear s).bstate = s.bstate := rfl
@[simp] theorem clClear_res (s : State) :
    (clClear s).res = s.res := rfl
@[simp] theorem clClear_cmdPort (s : State) :
    (clClear s).cmdPort = s.cmdPort := rfl
@[simp] theorem clClear_rspPort (s : State) :
    (clClear s).rspPort = s.rspPort := rfl

/-! ### elClear -/

@[simp] theorem elClear_cfg (s : State) :
    (elClear s).cfg = s.cfg := rfl
@[simp] theorem elClear_host (s : State) :
    (elClear s).host = s.host := rfl
@[simp] theorem elClear_clRdy (s : State) :
    (elClear s).clRdy = s.clRdy := rfl
@[simp] theorem elClear_elRdy (s : State) :
    (elClear s).elRdy = s.elRdy := rfl
@[simp] theorem elClear_sdRdy (s : State) :
    (elClear s).sdRdy = s.sdRdy := rfl
@[simp] theorem elClear_ddRdy (s : State) :
    (elClear s).ddRdy = s.ddRdy := rfl
@[simp] theorem elClear_lastErr (s : State) :
    (elClear s).lastErr = s.lastErr := rfl
@[simp] theorem elClear_cl (s : State) :
    (elClear s).cl = s.cl := rfl
@[simp] theorem elClear_el (s : State) :
    (elClear s).el = ElState.zero := rfl
@[simp] theorem elClear_trigLat (s : State) :
    (elClear s).trigLat = s.trigLat := rfl
@[simp] theorem elClear_sd (s : State) :
    (elClear s).sd = s.sd := rfl
@[simp] theorem elClear_dd (s : State) :
    (elClear s).dd = s.dd := rfl
@[simp] theorem elClear_bstate (s : State) :
    (elClear s).bstate = s.bstate := rfl
@[simp] theorem elClear_res (s : State) :
    (elClear s).res = s.res := rfl
@[simp] theorem elClear_cmdPort (s : State) :
    (elClear s).cmdPort = s.cmdPort := rfl
@[simp] theorem elClear_rspPort (s : State) :
    (elClear s).rspPort = s.rspPort := rfl

/-! ### sdClear -/

@[simp] theorem sdClear_cfg (s : State) :
    (sdClear s).cfg = s.cfg := rfl
@[simp] theorem sdClear_host (s : State) :
    (sdClear s).host = s.host := rfl
@[simp] theorem sdClear_clRdy (s : State) :
    (sdClear s).clRdy = s.clRdy := rfl
@[simp] theorem sdClear_elRdy (s : State) :
    (sdClear s).elRdy = s.elRdy := rfl
@[simp] theorem sdClear_sdRdy (s : State) :
    (sdClear s).sdRdy = s.sdRdy := rfl
@[simp] theorem sdClear_ddRdy (s : State) :
    (sdClear s).ddRdy = s.ddRdy := rfl
@[simp] theorem sdClear_lastErr (s : State) :
    (sdClear s).lastErr = s.lastErr := rfl
@[simp] theorem sdClear_cl (s : State) :
    (sdClear s).cl = s.cl := rfl
@[simp] theorem sdClear_el (s : State) :
    (sdClear s).el = s.el := rfl
@[simp] theorem sdClear_trigLat (s : State) :
    (sdClear s).trigLat = s.trigLat := rfl
@[simp] theorem sdClear_sd (s : State) :
    (sdClear s).sd = SdState.zero := rfl
@[simp] theorem sdClear_dd (s : State) :
    (sdClear s).dd = s.dd := rfl
@[simp] theorem sdClear_bstate (s : State) :
    (sdClear s).bstate = s.bstate := rfl
@[simp] theorem sdClear_res (s : State) :
    (sdClear s).res = s.res := rfl
@[simp] theorem sdClear_cmdPort (s : State) :
    (sdClear s).cmdPort = s.cmdPort := rfl
@[simp] theorem sdClear_rspPort (s : State) :
    (sdClear s).rspPort = s.rspPort := rfl

/-! ### ddClear -/

@[simp] theorem ddClear_cfg (s : State) :
    (ddClear s).cfg = s.cfg := rfl
@[simp] theorem ddClear_host (s : State) :
    (ddClear s).host = s.host := rfl
@[simp] theorem ddClear_clRdy (s : State) :
    (ddClear s).clRdy = s.clRdy := rfl
@[simp] theorem ddClear_elRdy (s : State) :
    (ddClear s).elRdy = s.elRdy := rfl
@[simp] theorem ddClear_sdRdy (s : State) :
    (ddClear s).sdRdy = s.sdRdy := rfl
@[simp] theorem ddClear_ddRdy (s : State) :
    (ddClear s).ddRdy = s.ddRdy := rfl
@[simp] theorem ddClear_lastErr (s : State) :
    (ddClear s).lastErr = s.lastErr := rfl
@[simp] theorem ddClear_cl (s : State) :
    (ddClear s).cl = s.cl := rfl
@[simp] theorem ddClear_el (s : State) :
    (ddClear s).el = s.el := rfl
@[simp] theorem ddClear_trigLat (s : State) :
    (ddClear s).trigLat = s.trigLat := rfl
@[simp] theorem ddClear_sd (s : State) :
    (ddClear s).sd = s.sd := rfl
@[simp] theorem ddClear_dd (s : State) :
    (ddClear s).dd = DdState.zero := rfl
@[simp] theorem ddClear_bstate (s : State) :
    (ddClear s).bstate = s.bstate := rfl
@[simp] theorem ddClear_res (s : State) :
    (ddClear s).res = s.res := rfl
@[simp] theorem ddClear_cmdPort (s : State) :
    (ddClear s).cmdPort = s.cmdPort := rfl
@[simp] theorem ddClear_rspPort (s : State) :
    (ddClear s).rspPort = s.rspPort := rfl

/-! ### flush -/

@[simp] theorem flush_cfg (s : State) :
    (flush s).cfg = s.cfg := rfl
@[simp] theorem flush_host (s : State) :
    (flush s).host = s.host := rfl
@[simp] theorem flush_clRdy (s : State) :
    (flush s).clRdy = s.clRdy := rfl
@[simp] theorem flush_elRdy (s : State) :
    (flush s).elRdy = s.elRdy := rfl
@[simp] theorem flush_sdRdy (s : State) :
    (flush s).sdRdy = s.sdRdy := rfl
@[simp] theorem flush_ddRdy (s : State) :
    (flush s).ddRdy = s.ddRdy := rfl
@[simp] theorem flush_lastErr (s : State) :
    (flush s).lastErr = s.lastErr := rfl
@[simp] theorem flush_cl (s : State) :
    (flush s).cl = ClState.zero := rfl
@[simp] theorem flush_el (s : State) :
    (flush s).el = ElState.zero := rfl
@[simp] theorem flush_trigLat (s : State) :
    (flush s).trigLat = s.trigLat := rfl
@[simp] theorem flush_sd (s : State) :
    (flush s).sd = SdState.zero := rfl
@[simp] theorem flush_dd (s : State) :
    (flush s).dd = DdState.zero := rfl
@[simp] theorem flush_bstate (s : State) :
    (flush s).bstate = s.bstate := rfl
@[simp] theorem flush_res (s : State) :
    (flush s).res = Results.zero := rfl
@[simp] theorem flush_cmdPort (s : State) :
    (flush s).cmdPort = s.cmdPort := rfl
@[simp] theorem flush_rspPort (s : State) :
    (flush s).rspPort = s.rspPort := rfl

/-! ### clStepState -/

@[simp] theorem clStepState_cfg (s : State) (x : Int) :
    (clStepState s x).cfg = s.cfg := rfl
@[simp] theorem clStepState_host (s : State) (x : Int) :
    (clStepState s x).host = s.host := rfl
@[simp] theorem clStepState_clRdy (s : State) (x : Int) :
    (clStepState s x).clRdy = s.clRdy := rfl
@[simp] theorem clStepState_elRdy (s : State) (x : Int) :
    (clStepState s x).elRdy = s.elRdy := rfl
@[simp] theorem clStepState_sdRdy (s : State) (x : Int) :
    (clStepState s x).sdRdy = s.sdRdy := rfl
@[simp] theorem clStepState_ddRdy (s : State) (x : Int) :
    (clStepState s x).ddRdy = s.ddRdy := rfl
@[simp] theorem clStepState_lastErr (s : State) (x : Int) :
    (clStepState s x).lastErr = s.lastErr := rfl
@[simp] theorem clStepState_cl (s : State) (x : Int) :
    (clStepState s x).cl = (clOut s x).cl := rfl
@[simp] theorem clStepState_el (s : State) (x : Int) :
    (clStepState s x).el = s.el := rfl
@[simp] theorem clStepState_trigLat (s : State) (x : Int) :
    (clStepState s x).trigLat = s.trigLat := rfl
@[simp] theorem clStepState_sd (s : State) (x : Int) :
    (clStepState s x).sd = s.sd := rfl
@[simp] theorem clStepState_dd (s : State) (x : Int) :
    (clStepState s x).dd = s.dd := rfl
@[simp] theorem clStepState_bstate (s : State) (x : Int) :
    (clStepState s x).bstate = s.bstate := rfl
@[simp] theorem clStepState_res (s : State) (x : Int) :
    (clStepState s x).res = { s.res with iq := pair16 (clOut s x).i (clOut s x).q } := rfl
@[simp] theorem clStepState_cmdPort (s : State) (x : Int) :
    (clStepState s x).cmdPort = s.cmdPort := rfl
@[simp] theorem clStepState_rspPort (s : State) (x : Int) :
    (clStepState s x).rspPort = s.rspPort := rfl

/-! ### elStepState -/

@[simp] theorem elStepState_cfg (s : State) (x : Int) :
    (elStepState s x).cfg = s.cfg := rfl
@[simp] theorem elStepState_host (s : State) (x : Int) :
    (elStepState s x).host = s.host := rfl
@[simp] theorem elStepState_clRdy (s : State) (x : Int) :
    (elStepState s x).clRdy = s.clRdy := rfl
@[simp] theorem elStepState_elRdy (s : State) (x : Int) :
    (elStepState s x).elRdy = s.elRdy := rfl
@[simp] theorem elStepState_sdRdy (s : State) (x : Int) :
    (elStepState s x).sdRdy = s.sdRdy := rfl
@[simp] theorem elStepState_ddRdy (s : State) (x : Int) :
    (elStepState s x).ddRdy = s.ddRdy := rfl
@[simp] theorem elStepState_lastErr (s : State) (x : Int) :
    (elStepState s x).lastErr = s.lastErr := rfl
@[simp] theorem elStepState_cl (s : State) (x : Int) :
    (elStepState s x).cl = s.cl := rfl
@[simp] theorem elStepState_el (s : State) (x : Int) :
    (elStepState s x).el = (elOut s x).el := rfl
@[simp] theorem elStepState_trigLat (s : State) (x : Int) :
    (elStepState s x).trigLat = s.trigLat := rfl
@[simp] theorem elStepState_sd (s : State) (x : Int) :
    (elStepState s x).sd = s.sd := rfl
@[simp] theorem elStepState_dd (s : State) (x : Int) :
    (elStepState s x).dd = s.dd := rfl
@[simp] theorem elStepState_bstate (s : State) (x : Int) :
    (elStepState s x).bstate = s.bstate := rfl
@[simp] theorem elStepState_res (s : State) (x : Int) :
    (elStepState s x).res = s.res := rfl
@[simp] theorem elStepState_cmdPort (s : State) (x : Int) :
    (elStepState s x).cmdPort = s.cmdPort := rfl
@[simp] theorem elStepState_rspPort (s : State) (x : Int) :
    (elStepState s x).rspPort = s.rspPort := rfl

/-! ### sdDelayState -/

@[simp] theorem sdDelayState_cfg (s : State) (b : Buffer) (x : Int) :
    (sdDelayState s b x).cfg = s.cfg := rfl
@[simp] theorem sdDelayState_host (s : State) (b : Buffer) (x : Int) :
    (sdDelayState s b x).host = s.host := rfl
@[simp] theorem sdDelayState_clRdy (s : State) (b : Buffer) (x : Int) :
    (sdDelayState s b x).clRdy = s.clRdy := rfl
@[simp] theorem sdDelayState_elRdy (s : State) (b : Buffer) (x : Int) :
    (sdDelayState s b x).elRdy = s.elRdy := rfl
@[simp] theorem sdDelayState_sdRdy (s : State) (b : Buffer) (x : Int) :
    (sdDelayState s b x).sdRdy = s.sdRdy := rfl
@[simp] theorem sdDelayState_ddRdy (s : State) (b : Buffer) (x : Int) :
    (sdDelayState s b x).ddRdy = s.ddRdy := rfl
@[simp] theorem sdDelayState_lastErr (s : State) (b : Buffer) (x : Int) :
    (sdDelayState s b x).lastErr = s.lastErr := rfl
@[simp] theorem sdDelayState_cl (s : State) (b : Buffer) (x : Int) :
    (sdDelayState s b x).cl = s.cl := rfl
@[simp] theorem sdDelayState_el (s : State) (b : Buffer) (x : Int) :
    (sdDelayState s b x).el = s.el := rfl
@[simp] theorem sdDelayState_trigLat (s : State) (b : Buffer) (x : Int) :
    (sdDelayState s b x).trigLat = s.trigLat := rfl
@[simp] theorem sdDelayState_sd (s : State) (b : Buffer) (x : Int) :
    (sdDelayState s b x).sd = sdPush s.cfg.sdLen.toNat s.sd b x := rfl
@[simp] theorem sdDelayState_dd (s : State) (b : Buffer) (x : Int) :
    (sdDelayState s b x).dd = s.dd := rfl
@[simp] theorem sdDelayState_bstate (s : State) (b : Buffer) (x : Int) :
    (sdDelayState s b x).bstate = s.bstate := rfl
@[simp] theorem sdDelayState_res (s : State) (b : Buffer) (x : Int) :
    (sdDelayState s b x).res = s.res := rfl
@[simp] theorem sdDelayState_cmdPort (s : State) (b : Buffer) (x : Int) :
    (sdDelayState s b x).cmdPort = s.cmdPort := rfl
@[simp] theorem sdDelayState_rspPort (s : State) (b : Buffer) (x : Int) :
    (sdDelayState s b x).rspPort = s.rspPort := rfl

/-! ### diffState -/

@[simp] theorem diffState_cfg (s : State) (cur : Nat) :
    (diffState s cur).cfg = s.cfg := rfl
@[simp] theorem diffState_host (s : State) (cur : Nat) :
    (diffState s cur).host = s.host := rfl
@[simp] theorem diffState_clRdy (s : State) (cur : Nat) :
    (diffState s cur).clRdy = s.clRdy := rfl
@[simp] theorem diffState_elRdy (s : State) (cur : Nat) :
    (diffState s cur).elRdy = s.elRdy := rfl
@[simp] theorem diffState_sdRdy (s : State) (cur : Nat) :
    (diffState s cur).sdRdy = s.sdRdy := rfl
@[simp] theorem diffState_ddRdy (s : State) (cur : Nat) :
    (diffState s cur).ddRdy = s.ddRdy := rfl
@[simp] theorem diffState_lastErr (s : State) (cur : Nat) :
    (diffState s cur).lastErr = s.lastErr := rfl
@[simp] theorem diffState_cl (s : State) (cur : Nat) :
    (diffState s cur).cl = s.cl := rfl
@[simp] theorem diffState_el (s : State) (cur : Nat) :
    (diffState s cur).el = s.el := rfl
@[simp] theorem diffState_trigLat (s : State) (cur : Nat) :
    (diffState s cur).trigLat = s.trigLat := rfl
@[simp] theorem diffState_sd (s : State) (cur : Nat) :
    (diffState s cur).sd = s.sd := rfl
@[simp] theorem diffState_dd (s : State) (cur : Nat) :
    (diffState s cur).dd = { s.dd with prev := BitVec.ofNat 6 cur } := rfl
@[simp] theorem diffState_bstate (s : State) (cur : Nat) :
    (diffState s cur).bstate = s.bstate := rfl
@[simp] theorem diffState_res (s : State) (cur : Nat) :
    (diffState s cur).res = s.res := rfl
@[simp] theorem diffState_cmdPort (s : State) (cur : Nat) :
    (diffState s cur).cmdPort = s.cmdPort := rfl
@[simp] theorem diffState_rspPort (s : State) (cur : Nat) :
    (diffState s cur).rspPort = s.rspPort := rfl

/-! ### presentFirst -/

@[simp] theorem presentFirst_cfg (w : Word) (s : State) :
    (presentFirst w s).cfg = s.cfg := rfl
@[simp] theorem presentFirst_host (w : Word) (s : State) :
    (presentFirst w s).host = s.host := rfl
@[simp] theorem presentFirst_clRdy (w : Word) (s : State) :
    (presentFirst w s).clRdy = s.clRdy := rfl
@[simp] theorem presentFirst_elRdy (w : Word) (s : State) :
    (presentFirst w s).elRdy = s.elRdy := rfl
@[simp] theorem presentFirst_sdRdy (w : Word) (s : State) :
    (presentFirst w s).sdRdy = s.sdRdy := rfl
@[simp] theorem presentFirst_ddRdy (w : Word) (s : State) :
    (presentFirst w s).ddRdy = s.ddRdy := rfl
@[simp] theorem presentFirst_lastErr (w : Word) (s : State) :
    (presentFirst w s).lastErr = s.lastErr := rfl
@[simp] theorem presentFirst_cl (w : Word) (s : State) :
    (presentFirst w s).cl = s.cl := rfl
@[simp] theorem presentFirst_el (w : Word) (s : State) :
    (presentFirst w s).el = s.el := rfl
@[simp] theorem presentFirst_trigLat (w : Word) (s : State) :
    (presentFirst w s).trigLat = s.trigLat := rfl
@[simp] theorem presentFirst_sd (w : Word) (s : State) :
    (presentFirst w s).sd = s.sd := rfl
@[simp] theorem presentFirst_dd (w : Word) (s : State) :
    (presentFirst w s).dd = s.dd := rfl
@[simp] theorem presentFirst_bstate (w : Word) (s : State) :
    (presentFirst w s).bstate = s.bstate := rfl
@[simp] theorem presentFirst_res (w : Word) (s : State) :
    (presentFirst w s).res = s.res := rfl
@[simp] theorem presentFirst_cmdPort (w : Word) (s : State) :
    (presentFirst w s).cmdPort = .command w :: s.cmdPort := rfl
@[simp] theorem presentFirst_rspPort (w : Word) (s : State) :
    (presentFirst w s).rspPort = s.rspPort := rfl

/-! ### sliceState -/

@[simp] theorem sliceState_cfg (s : State) (i q : Int) :
    (sliceState s i q).cfg = s.cfg := by
  unfold sliceState; split <;> rfl
@[simp] theorem sliceState_host (s : State) (i q : Int) :
    (sliceState s i q).host = s.host := by
  unfold sliceState; split <;> rfl
@[simp] theorem sliceState_clRdy (s : State) (i q : Int) :
    (sliceState s i q).clRdy = s.clRdy := by
  unfold sliceState; split <;> rfl
@[simp] theorem sliceState_elRdy (s : State) (i q : Int) :
    (sliceState s i q).elRdy = s.elRdy := by
  unfold sliceState; split <;> rfl
@[simp] theorem sliceState_sdRdy (s : State) (i q : Int) :
    (sliceState s i q).sdRdy = s.sdRdy := by
  unfold sliceState; split <;> rfl
@[simp] theorem sliceState_ddRdy (s : State) (i q : Int) :
    (sliceState s i q).ddRdy = s.ddRdy := by
  unfold sliceState; split <;> rfl
@[simp] theorem sliceState_lastErr (s : State) (i q : Int) :
    (sliceState s i q).lastErr = s.lastErr := by
  unfold sliceState; split <;> rfl
@[simp] theorem sliceState_cl (s : State) (i q : Int) :
    (sliceState s i q).cl = s.cl := by
  unfold sliceState; split <;> rfl
@[simp] theorem sliceState_el (s : State) (i q : Int) :
    (sliceState s i q).el = s.el := by
  unfold sliceState; split <;> rfl
@[simp] theorem sliceState_trigLat (s : State) (i q : Int) :
    (sliceState s i q).trigLat = s.trigLat := by
  unfold sliceState; split <;> rfl
@[simp] theorem sliceState_sd (s : State) (i q : Int) :
    (sliceState s i q).sd = s.sd := by
  unfold sliceState; split <;> rfl
@[simp] theorem sliceState_bstate (s : State) (i q : Int) :
    (sliceState s i q).bstate = s.bstate := by
  unfold sliceState; split <;> rfl
@[simp] theorem sliceState_res (s : State) (i q : Int) :
    (sliceState s i q).res = s.res := by
  unfold sliceState; split <;> rfl
@[simp] theorem sliceState_cmdPort (s : State) (i q : Int) :
    (sliceState s i q).cmdPort = s.cmdPort := by
  unfold sliceState; split <;> rfl
@[simp] theorem sliceState_rspPort (s : State) (i q : Int) :
    (sliceState s i q).rspPort = s.rspPort := by
  unfold sliceState; split <;> rfl

/-! ### clearReady -/

@[simp] theorem clearReady_cfg (u : UnitId) (s : State) :
    (clearReady u s).cfg = s.cfg := by
  cases u <;> rfl
@[simp] theorem clearReady_host (u : UnitId) (s : State) :
    (clearReady u s).host = s.host := by
  cases u <;> rfl
@[simp] theorem clearReady_lastErr (u : UnitId) (s : State) :
    (clearReady u s).lastErr = s.lastErr := by
  cases u <;> rfl
@[simp] theorem clearReady_cl (u : UnitId) (s : State) :
    (clearReady u s).cl = s.cl := by
  cases u <;> rfl
@[simp] theorem clearReady_el (u : UnitId) (s : State) :
    (clearReady u s).el = s.el := by
  cases u <;> rfl
@[simp] theorem clearReady_trigLat (u : UnitId) (s : State) :
    (clearReady u s).trigLat = s.trigLat := by
  cases u <;> rfl
@[simp] theorem clearReady_sd (u : UnitId) (s : State) :
    (clearReady u s).sd = s.sd := by
  cases u <;> rfl
@[simp] theorem clearReady_dd (u : UnitId) (s : State) :
    (clearReady u s).dd = s.dd := by
  cases u <;> rfl
@[simp] theorem clearReady_bstate (u : UnitId) (s : State) :
    (clearReady u s).bstate = s.bstate := by
  cases u <;> rfl
@[simp] theorem clearReady_res (u : UnitId) (s : State) :
    (clearReady u s).res = s.res := by
  cases u <;> rfl
@[simp] theorem clearReady_cmdPort (u : UnitId) (s : State) :
    (clearReady u s).cmdPort = s.cmdPort := by
  cases u <;> rfl
@[simp] theorem clearReady_rspPort (u : UnitId) (s : State) :
    (clearReady u s).rspPort = s.rspPort := by
  cases u <;> rfl

/-! ### entryWrite -/

@[simp] theorem entryWrite_cfg (s : State) (t : TableId) (n : Nat) (d : Reg) :
    (entryWrite s t n d).cfg = s.cfg := by
  cases t <;> rfl
@[simp] theorem entryWrite_clRdy (s : State) (t : TableId) (n : Nat) (d : Reg) :
    (entryWrite s t n d).clRdy = s.clRdy := by
  cases t <;> rfl
@[simp] theorem entryWrite_elRdy (s : State) (t : TableId) (n : Nat) (d : Reg) :
    (entryWrite s t n d).elRdy = s.elRdy := by
  cases t <;> rfl
@[simp] theorem entryWrite_sdRdy (s : State) (t : TableId) (n : Nat) (d : Reg) :
    (entryWrite s t n d).sdRdy = s.sdRdy := by
  cases t <;> rfl
@[simp] theorem entryWrite_ddRdy (s : State) (t : TableId) (n : Nat) (d : Reg) :
    (entryWrite s t n d).ddRdy = s.ddRdy := by
  cases t <;> rfl
@[simp] theorem entryWrite_lastErr (s : State) (t : TableId) (n : Nat) (d : Reg) :
    (entryWrite s t n d).lastErr = s.lastErr := by
  cases t <;> rfl
@[simp] theorem entryWrite_cl (s : State) (t : TableId) (n : Nat) (d : Reg) :
    (entryWrite s t n d).cl = s.cl := by
  cases t <;> rfl
@[simp] theorem entryWrite_el (s : State) (t : TableId) (n : Nat) (d : Reg) :
    (entryWrite s t n d).el = s.el := by
  cases t <;> rfl
@[simp] theorem entryWrite_trigLat (s : State) (t : TableId) (n : Nat) (d : Reg) :
    (entryWrite s t n d).trigLat = s.trigLat := by
  cases t <;> rfl
@[simp] theorem entryWrite_sd (s : State) (t : TableId) (n : Nat) (d : Reg) :
    (entryWrite s t n d).sd = s.sd := by
  cases t <;> rfl
@[simp] theorem entryWrite_dd (s : State) (t : TableId) (n : Nat) (d : Reg) :
    (entryWrite s t n d).dd = s.dd := by
  cases t <;> rfl
@[simp] theorem entryWrite_bstate (s : State) (t : TableId) (n : Nat) (d : Reg) :
    (entryWrite s t n d).bstate = s.bstate := by
  cases t <;> rfl
@[simp] theorem entryWrite_res (s : State) (t : TableId) (n : Nat) (d : Reg) :
    (entryWrite s t n d).res = s.res := by
  cases t <;> rfl
@[simp] theorem entryWrite_cmdPort (s : State) (t : TableId) (n : Nat) (d : Reg) :
    (entryWrite s t n d).cmdPort = s.cmdPort := by
  cases t <;> rfl
@[simp] theorem entryWrite_rspPort (s : State) (t : TableId) (n : Nat) (d : Reg) :
    (entryWrite s t n d).rspPort = s.rspPort := by
  cases t <;> rfl

/-! ### decisionState -/

@[simp] theorem decisionState_cfg (s : State) (trig : Bool) (i q : Int) :
    (decisionState s trig i q).cfg = s.cfg := by
  unfold decisionState; split
  · split <;> simp
  · rfl
@[simp] theorem decisionState_host (s : State) (trig : Bool) (i q : Int) :
    (decisionState s trig i q).host = s.host := by
  unfold decisionState; split
  · split <;> simp
  · rfl
@[simp] theorem decisionState_clRdy (s : State) (trig : Bool) (i q : Int) :
    (decisionState s trig i q).clRdy = s.clRdy := by
  unfold decisionState; split
  · split <;> simp
  · rfl
@[simp] theorem decisionState_elRdy (s : State) (trig : Bool) (i q : Int) :
    (decisionState s trig i q).elRdy = s.elRdy := by
  unfold decisionState; split
  · split <;> simp
  · rfl
@[simp] theorem decisionState_sdRdy (s : State) (trig : Bool) (i q : Int) :
    (decisionState s trig i q).sdRdy = s.sdRdy := by
  unfold decisionState; split
  · split <;> simp
  · rfl
@[simp] theorem decisionState_ddRdy (s : State) (trig : Bool) (i q : Int) :
    (decisionState s trig i q).ddRdy = s.ddRdy := by
  unfold decisionState; split
  · split <;> simp
  · rfl
@[simp] theorem decisionState_lastErr (s : State) (trig : Bool) (i q : Int) :
    (decisionState s trig i q).lastErr = s.lastErr := by
  unfold decisionState; split
  · split <;> simp
  · rfl
@[simp] theorem decisionState_cl (s : State) (trig : Bool) (i q : Int) :
    (decisionState s trig i q).cl = s.cl := by
  unfold decisionState; split
  · split <;> simp
  · rfl
@[simp] theorem decisionState_el (s : State) (trig : Bool) (i q : Int) :
    (decisionState s trig i q).el = s.el := by
  unfold decisionState; split
  · split <;> simp
  · rfl
@[simp] theorem decisionState_trigLat (s : State) (trig : Bool) (i q : Int) :
    (decisionState s trig i q).trigLat = s.trigLat := by
  unfold decisionState; split
  · split <;> simp
  · rfl
@[simp] theorem decisionState_sd (s : State) (trig : Bool) (i q : Int) :
    (decisionState s trig i q).sd = s.sd := by
  unfold decisionState; split
  · split <;> simp
  · rfl
@[simp] theorem decisionState_bstate (s : State) (trig : Bool) (i q : Int) :
    (decisionState s trig i q).bstate = s.bstate := by
  unfold decisionState; split
  · split <;> simp
  · rfl
@[simp] theorem decisionState_res (s : State) (trig : Bool) (i q : Int) :
    (decisionState s trig i q).res = s.res := by
  unfold decisionState; split
  · split <;> simp
  · rfl
@[simp] theorem decisionState_cmdPort (s : State) (trig : Bool) (i q : Int) :
    (decisionState s trig i q).cmdPort = s.cmdPort := by
  unfold decisionState; split
  · split <;> simp
  · rfl
@[simp] theorem decisionState_rspPort (s : State) (trig : Bool) (i q : Int) :
    (decisionState s trig i q).rspPort = s.rspPort := by
  unfold decisionState; split
  · split <;> simp
  · rfl

/-! ### hardwareReset and withFetchWord -/

theorem hardwareReset_eq (s : State) :
    hardwareReset s = { State.reset with cmdPort := s.cmdPort, rspPort := s.rspPort } := rfl
@[simp] theorem withFetchWord_cmdPort (s : State) (nbits w : Nat) :
    (s.withFetchWord nbits w).cmdPort = .command (wordOfBits nbits w) :: s.cmdPort := rfl

end Sys2Proof.Machine
end

