-- ==== Sys2Proof/Laws/Ops.lean ====
section
/-! SUPPORT. What the shared operations can do, said once: the two ends of a command, the words they
send and record as numbers, the primitives of spec/00_scope.md R11. -/

namespace Sys2Proof.Machine

/-! ### The two ends of a command -/

/-- `respond` answers one next state: the state it is given, one response word longer. -/
theorem respond_eq_next {r : Response} {s t : State} :
    respond r s = .next t ↔ t = { s with rspPort := s.rspPort ++ [packResponse r] } := by
  unfold respond send
  constructor
  · intro h; cases h; rfl
  · rintro rfl; rfl

/-- `raise` answers one next state: LASTERR and the error response, nothing else. -/
theorem raise_eq_next {op : BitVec 8} {e : ErrorCode} {u : UnitId} {check : BitVec 8} {s t : State} :
    raise op e u check s = .next t ↔
      t = { s with
            lastErr := lastErrWord op e u check
            rspPort := s.rspPort ++ [packResponse { err := e }] } := by
  unfold raise send
  constructor
  · intro h; cases h; rfl
  · rintro rfl; rfl

theorem respond_ne_fault {r : Response} {s : State} {f : Fault} : respond r s ≠ .fault f := by
  intro h; cases h

theorem raise_ne_fault {op : BitVec 8} {e : ErrorCode} {u : UnitId} {check : BitVec 8} {s : State}
    {f : Fault} : raise op e u check s ≠ .fault f := by
  intro h; cases h

/-! ### Words as numbers -/

/-- Concatenation as a number: the left part above the right part's width. -/
theorem toNat_append_add {m n : Nat} (a : BitVec m) (b : BitVec n) :
    (a ++ b).toNat = a.toNat * 2 ^ n + b.toNat := by
  rw [BitVec.toNat_append, ← Nat.shiftLeft_add_eq_or_of_lt b.isLt, Nat.shiftLeft_eq]

theorem ofBool_toNat (b : Bool) : (BitVec.ofBool b).toNat = b.toNat := by cases b <;> rfl

/-- The response word as a number: every field at its bit of R86. -/
theorem packResponse_toNat (r : Response) :
    (packResponse r).toNat =
      r.err.code.toNat * 2 ^ 60 + r.fsep.toNat * 2 ^ 53 + r.trk.toNat * 2 ^ 52
        + r.gated.toNat * 2 ^ 51 + r.rej.toNat * 2 ^ 50 + r.acc.toNat * 2 ^ 49
        + r.trig.toNat * 2 ^ 48 + r.sym.toNat * 2 ^ 40 + r.idx.toNat * 2 ^ 32 + r.data.toNat := by
  unfold packResponse flagsByte
  simp only [toNat_append_add, ofBool_toNat, BitVec.toNat_ofNat]
  ring

/-- LASTERR as a number: code, unit, check and opcode at their bits of R29. -/
theorem lastErrWord_toNat (op : BitVec 8) (e : ErrorCode) (u : UnitId) (check : BitVec 8) :
    (lastErrWord op e u check).toNat =
      e.code.toNat + u.num.toNat * 2 ^ 4 + check.toNat * 2 ^ 8 + op.toNat * 2 ^ 24 := by
  unfold lastErrWord
  simp only [toNat_append_add, BitVec.toNat_ofNat]
  ring

/-! ### The primitives of R11 -/

theorem sat_range (n : Nat) (v : Int) :
    -((2 ^ (n - 1) : Nat) : Int) ≤ sat n v ∧ sat n v ≤ ((2 ^ (n - 1) : Nat) : Int) - 1 := by
  have hp : (0 : Int) < ((2 ^ (n - 1) : Nat) : Int) := by positivity
  unfold sat
  split
  · constructor <;> omega
  · split <;> constructor <;> omega

theorem sat_of_range {n : Nat} {v : Int} (hlo : -((2 ^ (n - 1) : Nat) : Int) ≤ v)
    (hhi : v ≤ ((2 ^ (n - 1) : Nat) : Int) - 1) : sat n v = v := by
  unfold sat
  rw [if_neg (by omega), if_neg (by omega)]

theorem sgn_eq_sign (v : Int) : sgn v = v.sign := by
  unfold sgn
  split
  · next h => exact (Int.sign_eq_one_of_pos h).symm
  · split
    · next h => subst h; rfl
    · next h1 h2 => exact (Int.sign_eq_neg_one_of_neg (by omega)).symm

theorem absInt_eq_abs (v : Int) : absInt v = |v| := by
  unfold absInt
  split
  · next h => exact (abs_of_nonneg h).symm
  · next h => exact (abs_of_neg (by omega)).symm

/-- A narrow signed store loses nothing when the value is in range. -/
theorem ofInt_toInt_of_range {n : Nat} (h : 1 ≤ n) {v : Int}
    (hlo : -((2 ^ (n - 1) : Nat) : Int) ≤ v) (hhi : v ≤ ((2 ^ (n - 1) : Nat) : Int) - 1) :
    (BitVec.ofInt n v).toInt = v := by
  rw [BitVec.toInt_ofInt]
  obtain ⟨k, rfl⟩ : ∃ k, n = k + 1 := ⟨n - 1, by omega⟩
  simp only [Nat.add_sub_cancel] at hlo hhi
  apply Int.bmod_eq_of_le_mul_two
  · push_cast [pow_succ] at *; omega
  · push_cast [pow_succ] at *; omega

/-- The exact sum is bounded by the number of terms times a bound of each. -/
theorem sumTo_bound {b : Int} {f : Nat → Int} (n : Nat) (h : ∀ k < n, -b ≤ f k ∧ f k ≤ b) :
    -((n : Int) * b) ≤ sumTo n f ∧ sumTo n f ≤ (n : Int) * b := by
  induction n with
  | zero => simp [sumTo]
  | succ k ih =>
    have h1 := ih fun j hj => h j (by omega)
    have h2 := h k (by omega)
    simp only [sumTo]
    push_cast
    constructor <;> nlinarith

theorem sumTo_congr {f g : Nat → Int} (n : Nat) (h : ∀ k < n, f k = g k) :
    sumTo n f = sumTo n g := by
  induction n with
  | zero => rfl
  | succ k ih => simp only [sumTo, ih fun j hj => h j (by omega), h k (by omega)]

end Sys2Proof.Machine
end

