-- ==== Sys2Proof/Laws/Bits.lean ====
section
/-! SUPPORT. The bit fields of spec/30_encoding.md R81 and of the packed pairs of 00_scope.md R9 as
numbers. -/

namespace Sys2Proof

open Sys2Proof.Machine

theorem extract_toNat {n : Nat} (v : BitVec n) (lo len : Nat) :
    (v.extractLsb' lo len).toNat = v.toNat / 2 ^ lo % 2 ^ len := by
  rw [BitVec.extractLsb'_toNat, Nat.shiftRight_eq_div_pow]

/-- The upper half of a pair. -/
theorem hi16_append (p q : BitVec 16) : hi16 (p ++ q) = p := by
  unfold hi16
  apply BitVec.eq_of_toNat_eq
  have := p.isLt
  have := q.isLt
  simp only [extract_toNat, toNat_append_add]
  omega

/-- The lower half of a pair. -/
theorem lo16_append (p q : BitVec 16) : lo16 (p ++ q) = q := by
  unfold lo16
  apply BitVec.eq_of_toNat_eq
  have := p.isLt
  have := q.isLt
  simp only [extract_toNat, toNat_append_add]
  omega

/-- A word is the pair of its halves. -/
theorem hi16_append_lo16 (v : BitVec 32) : (hi16 v ++ lo16 v : BitVec 32) = v := by
  apply BitVec.eq_of_toNat_eq
  have := v.isLt
  have e := toNat_append_add (hi16 v) (lo16 v)
  rw [e]
  simp only [hi16, lo16, extract_toNat]
  omega

/-- The opcode byte as a number. -/
theorem fieldOp_toNat (w : Word) : (fieldOp w).toNat = w.toNat / 2 ^ 56 := by
  unfold fieldOp
  rw [extract_toNat]
  have := w.isLt
  omega

/-- A narrow register zero-extended to a word. -/
theorem setWidth_eq_ofNat {n : Nat} (v : BitVec n) (_h : n ≤ 32) :
    v.setWidth 32 = BitVec.ofNat 32 v.toNat := by
  apply BitVec.eq_of_toNat_eq
  simp

theorem ofInt_sampleOf (x : Sample) : BitVec.ofInt 16 (sampleOf x) = x := by
  simp [sampleOf]

/-- An index taken modulo a length in use fits the register that holds it. -/
theorem wrapIndex_toNat {width m n : Nat} (hn : 0 < n) (hw : n ≤ 2 ^ width) :
    (BitVec.ofNat width (m % n)).toNat = m % n := by
  rw [BitVec.toNat_ofNat, Nat.mod_eq_of_lt (lt_of_lt_of_le (Nat.mod_lt _ hn) hw)]

/-- A command word as the number its four fields make (R81). -/
theorem encode_eq_ofNat (i : Instr) :
    encode i = BitVec.ofNat 64 ((opcode i).toNat * 2 ^ 56 + (encodeT i).toNat * 2 ^ 48
      + (encodeA i).toNat * 2 ^ 32 + (encodeD i).toNat) := by
  apply BitVec.eq_of_toNat_eq
  have h0 := (opcode i).isLt
  have h1 := (encodeT i).isLt
  have h2 := (encodeA i).isLt
  have h3 := (encodeD i).isLt
  simp only [encode, joinFields, BitVec.toNat_append, BitVec.toNat_ofNat]
  rw [← Nat.shiftLeft_add_eq_or_of_lt h1, ← Nat.shiftLeft_add_eq_or_of_lt h2,
    ← Nat.shiftLeft_add_eq_or_of_lt h3]
  simp only [Nat.shiftLeft_eq]
  omega

end Sys2Proof
end

