-- ==== Sys2Proof/Laws/Exec.lean ====
section
/-! SUPPORT. The two ends of a command over the whole instruction set, the pieces of state a decision
or a pipeline step can touch, and one step of a run. -/

namespace Sys2Proof.Machine

/-! ### A run, one step at a time -/

theorem run_succ (M : Host.Core) (k : Nat) (s : M.State) :
    M.run (k + 1) s =
      match M.step s with
      | .next t => M.run k t
      | .fault f => .fault f
      | .refused r => .refused r := rfl

theorem run_of_next {s t : State} (k : Nat) (h : step s = .next t) :
    core.run (k + 1) s = core.run k t := by
  have e := run_succ core k s
  have h' : core.step s = .next t := h
  rw [h'] at e
  exact e

theorem run_of_fault {s : State} {f : Fault} (k : Nat) (h : step s = .fault f) :
    core.run (k + 1) s = .fault f := by
  have e := run_succ core k s
  have h' : core.step s = .fault f := h
  rw [h'] at e
  exact e

theorem run_of_refused {s : State} {r : Refusal} (k : Nat) (h : step s = .refused r) :
    core.run (k + 1) s = .refused r := by
  have e := run_succ core k s
  have h' : core.step s = .refused r := h
  rw [h'] at e
  exact e

/-! ### What a decision and a pipeline step leave alone -/

theorem sliceState_cases (s : State) (i q : Int) :
    sliceState s i q = s
      ∨ sliceState s i q = { s with dd := { s.dd with decCnt := decCntNext s.dd.decCnt } } := by
  unfold sliceState
  split <;> simp

/-- The decision stage writes DD's dynamic state only. -/
theorem decisionState_frame (s : State) (trig : Bool) (dI dQ : Int) :
    decisionState s trig dI dQ = { s with dd := (decisionState s trig dI dQ).dd } := by
  unfold decisionState sliceOut sliceState diffState
  split
  · split <;> split <;> rfl
  · rfl

/-- The pipeline step writes the dynamic state of the four units and the result registers only. -/
theorem dmStepState_frame (s : State) (x : Int) :
    dmStepState s x =
      { s with
        cl := (dmStepState s x).cl, el := (dmStepState s x).el, sd := (dmStepState s x).sd
        dd := (dmStepState s x).dd, res := (dmStepState s x).res } := by
  unfold dmStepState
  dsimp only
  rw [decisionState_frame]
  rfl

/-! ### The checks of an INIT command -/

theorem clInitCheck_eq_none {c : ConfigRegs} : clInitCheck c = none ↔ clLegal c := by
  unfold clInitCheck clLegal
  split_ifs <;> simp <;> omega

theorem elInitCheck_eq_none {c : ConfigRegs} : elInitCheck c = none ↔ elLegal c := by
  unfold elInitCheck elLegal
  split_ifs <;> simp <;> omega

theorem sdInitCheck_eq_none {c : ConfigRegs} : sdInitCheck c = none ↔ sdLegal c := by
  unfold sdInitCheck sdLegal
  split_ifs <;> simp <;> omega

theorem ddInitCheck_eq_none {c : ConfigRegs} : ddInitCheck c = none ↔ ddLegal c := by
  unfold ddInitCheck ddLegal
  split_ifs <;> simp <;> omega

/-! ### A step command of a unit that is ready and sound -/

theorem execClStep_ready {s : State} (x : Sample) (hr : s.clRdy = true) (hs : clSound s) :
    execClStep x s =
      respond
        { trk := trk s, data := pair16 (clOut s (sampleOf x)).i (clOut s (sampleOf x)).q }
        (clStepState s (sampleOf x)) := by
  rw [execClStep, if_pos hr, if_pos hs]

theorem execElStep_ready {s : State} (x : Sample) (hr : s.elRdy = true) (hs : elSound s) :
    execElStep x s =
      respond { trig := (elOut s (sampleOf x)).trig } (elStepState s (sampleOf x)) := by
  rw [execElStep, if_pos hr, if_pos hs]

theorem execSdDelay_ready {s : State} (b : Buffer) (x : Sample) (hr : s.sdRdy = true)
    (hs : sdSound s) :
    execSdDelay b x s =
      respond { data := (BitVec.ofInt 16 (sdOut s.sd b)).setWidth 32 }
        (sdDelayState s b (sampleOf x)) := by
  rw [execSdDelay, if_pos hr, if_pos hs]

theorem execDdSlice_ready {s : State} (pi pq : Sample) (hr : s.ddRdy = true) (hs : ddSound s) :
    execDdSlice pi pq s =
      respond (sliceResponse (sliceOut s (sampleOf pi) (sampleOf pq)))
        (sliceState s (sampleOf pi) (sampleOf pq)) := by
  rw [execDdSlice, if_pos hr, if_pos hs]

theorem execDdDiff_ready {s : State} (cur : BitVec 6) (hr : s.ddRdy = true) (hs : ddSound s)
    (hc : cur.toNat < s.cfg.ddM.toNat) :
    execDdDiff cur s = respond { sym := diffOut s cur.toNat } (diffState s cur.toNat) := by
  rw [execDdDiff, if_pos hr, if_pos hc, if_pos hs]

/-! ### How DM.STEP ends -/

/-- DM.STEP raises one of its checks, or is gated, or runs with all four units ready and sound. -/
theorem execDmStep_next {x : Sample} {s t : State} (h : execDmStep x s = .next t) :
    (∃ e u c, e ≠ .ok ∧ execDmStep x s = raise (opcode (.dmStep x)) e u c s)
      ∨ execDmStep x s = respond { gated := true } s
      ∨ (s.clRdy = true ∧ s.elRdy = true ∧ s.sdRdy = true ∧ s.ddRdy = true ∧ clSound s ∧ elSound s
          ∧ sdSound s ∧ ddSound s
          ∧ execDmStep x s =
              respond (dmStepResponse s (sampleOf x)) (dmStepState s (sampleOf x))) := by
  unfold execDmStep at h ⊢
  by_cases h1 : s.clRdy = false
  · rw [if_pos h1]
    exact .inl ⟨.notReady, _, _, by decide, rfl⟩
  rw [if_neg h1] at h ⊢
  by_cases h2 : s.elRdy = false
  · rw [if_pos h2]
    exact .inl ⟨.notReady, _, _, by decide, rfl⟩
  rw [if_neg h2] at h ⊢
  by_cases h3 : s.sdRdy = false
  · rw [if_pos h3]
    exact .inl ⟨.notReady, _, _, by decide, rfl⟩
  rw [if_neg h3] at h ⊢
  by_cases h4 : s.ddRdy = false
  · rw [if_pos h4]
    exact .inl ⟨.notReady, _, _, by decide, rfl⟩
  rw [if_neg h4] at h ⊢
  by_cases h5 : s.cfg.dmElgSrc.toNat > 1
  · rw [if_pos h5]
    exact .inl ⟨.paramError, _, _, by decide, rfl⟩
  rw [if_neg h5] at h ⊢
  right
  split at h
  · exact .inl rfl
  right
  by_cases k1 : ¬ clSound s
  · rw [if_pos k1] at h
    cases h
  rw [if_neg k1] at h ⊢
  by_cases k2 : ¬ elSound s
  · rw [if_pos k2] at h
    cases h
  rw [if_neg k2] at h ⊢
  by_cases k3 : ¬ sdSound s
  · rw [if_pos k3] at h
    cases h
  rw [if_neg k3] at h ⊢
  by_cases k4 : ¬ ddSound s
  · rw [if_pos k4] at h
    cases h
  rw [if_neg k4]
  exact ⟨by simpa using h1, by simpa using h2, by simpa using h3, by simpa using h4,
    Decidable.of_not_not k1, Decidable.of_not_not k2, Decidable.of_not_not k3,
    Decidable.of_not_not k4, rfl⟩

end Sys2Proof.Machine
end

