-- ==== Sys2Proof/Laws/Tables.lean ====
section
/-! SUPPORT. The laws of a table (spec/20_memory.md R61, R63): a read after a write, and that every
write keeps the canonical form of log 6. -/

namespace Sys2Proof.Machine

variable {width : Nat}

@[simp] theorem tabGet_nil (i : Nat) : tabGet ([] : Table width) i = 0#width := rfl

/-! ### Reading after a write -/

theorem tabErase_not_listed (t : Table width) (i : Nat) : ∀ p ∈ tabErase t i, p.1 ≠ i := by
  induction t with
  | nil => simp [tabErase]
  | cons p rest ih =>
    obtain ⟨k, w⟩ := p
    by_cases hk : k = i
    · simpa [tabErase, hk] using ih
    · simpa [tabErase, hk] using ih

theorem tabGet_tabErase (t : Table width) (i j : Nat) :
    tabGet (tabErase t i) j = if j = i then 0#width else tabGet t j := by
  induction t with
  | nil => simp [tabErase]
  | cons p rest ih =>
    obtain ⟨k, w⟩ := p
    by_cases hk : k = i
    · subst hk
      by_cases hj : j = k
      · subst hj
        simpa [tabErase] using ih
      · have : ¬ k = j := fun h => hj h.symm
        simp [tabErase, tabGet, ih, hj, this]
    · by_cases hj : j = i
      · subst hj
        simp [tabErase, tabGet, ih, hk]
      · simp [tabErase, tabGet, ih, hk, hj]

theorem tabGet_tabInsert_self (t : Table width) (i : Nat) (v : BitVec width)
    (h : ∀ p ∈ t, p.1 ≠ i) : tabGet (tabInsert t i v) i = v := by
  induction t with
  | nil => simp [tabInsert, tabGet]
  | cons p rest ih =>
    obtain ⟨k, w⟩ := p
    have hk : k ≠ i := h (k, w) (by simp)
    have hrest : ∀ p ∈ rest, p.1 ≠ i := fun p hp => h p (by simp [hp])
    by_cases hik : i < k
    · simp [tabInsert, tabGet, hik]
    · simp [tabInsert, tabGet, hik, hk, ih hrest]

theorem tabGet_tabInsert_ne (t : Table width) (i j : Nat) (v : BitVec width) (hj : j ≠ i) :
    tabGet (tabInsert t i v) j = tabGet t j := by
  have hij : ¬ i = j := fun h => hj h.symm
  induction t with
  | nil => simp [tabInsert, tabGet, hij, unlistedEntry]
  | cons p rest ih =>
    obtain ⟨k, w⟩ := p
    by_cases hik : i < k
    · simp [tabInsert, tabGet, hik, hij]
    · simp [tabInsert, tabGet, hik, ih]

/-- A read after a write: the value written at its index, what was there at every other. -/
theorem tabGet_tabSet (t : Table width) (i j : Nat) (v : BitVec width) :
    tabGet (tabSet t i v) j = if j = i then v else tabGet t j := by
  unfold tabSet
  by_cases hv : v = unlistedEntry width
  · simp [hv, tabGet_tabErase, unlistedEntry]
  · by_cases hj : j = i
    · subst hj
      simp [hv, tabGet_tabInsert_self _ _ _ (tabErase_not_listed t j)]
    · simp [hv, hj, tabGet_tabInsert_ne, tabGet_tabErase]

/-! ### The canonical form -/

theorem tabWfFrom_mono {cap lo hi : Nat} {t : Table width} (h : tabWfFrom cap hi t = true)
    (hlo : lo ≤ hi) : tabWfFrom cap lo t = true := by
  cases t with
  | nil => rfl
  | cons p rest =>
    obtain ⟨k, w⟩ := p
    simp only [tabWfFrom, Bool.and_eq_true, decide_eq_true_eq] at h ⊢
    exact ⟨⟨⟨by omega, h.1.1.2⟩, h.1.2⟩, h.2⟩

theorem tabErase_wfFrom {cap lo : Nat} {t : Table width} (i : Nat)
    (h : tabWfFrom cap lo t = true) : tabWfFrom cap lo (tabErase t i) = true := by
  induction t generalizing lo with
  | nil => rfl
  | cons p rest ih =>
    obtain ⟨k, w⟩ := p
    simp only [tabWfFrom, Bool.and_eq_true, decide_eq_true_eq] at h
    by_cases hk : k = i
    · simpa [tabErase, hk] using tabWfFrom_mono (ih h.2) (by omega)
    · simpa [tabErase, hk, tabWfFrom, ih h.2] using h.1

theorem tabInsert_wfFrom {cap lo i : Nat} {t : Table width} {v : BitVec width}
    (h : tabWfFrom cap lo t = true) (hn : ∀ p ∈ t, p.1 ≠ i) (hlo : lo ≤ i) (hi : i < cap)
    (hv : v ≠ unlistedEntry width) : tabWfFrom cap lo (tabInsert t i v) = true := by
  induction t generalizing lo with
  | nil => simp [tabInsert, tabWfFrom, hlo, hi, hv]
  | cons p rest ih =>
    obtain ⟨k, w⟩ := p
    have hk : k ≠ i := hn (k, w) (by simp)
    simp only [tabWfFrom, Bool.and_eq_true, decide_eq_true_eq] at h
    by_cases hik : i < k
    · simp only [tabInsert, hik, if_true, tabWfFrom, Bool.and_eq_true, decide_eq_true_eq]
      exact ⟨⟨⟨hlo, hi⟩, hv⟩, ⟨⟨by omega, h.1.1.2⟩, h.1.2⟩, h.2⟩
    · simp only [tabInsert, hik, if_false, tabWfFrom, Bool.and_eq_true, decide_eq_true_eq]
      exact ⟨h.1, ih h.2 (fun p hp => hn p (by simp [hp])) (by omega)⟩

/-- Every write inside the capacity keeps the canonical form. -/
theorem tabSet_wf {cap i : Nat} {t : Table width} (v : BitVec width) (h : tabWf cap t = true)
    (hi : i < cap) : tabWf cap (tabSet t i v) = true := by
  unfold tabSet tabWf at *
  split
  · exact tabErase_wfFrom i h
  · next hv =>
    exact tabInsert_wfFrom (tabErase_wfFrom i h) (tabErase_not_listed t i) (Nat.zero_le i) hi hv

@[simp] theorem tabWf_nil (cap : Nat) : tabWf cap ([] : Table width) = true := rfl

/-- The memory right after reset is in canonical form. -/
theorem memory_wf_at_reset : Memory.wf State.reset = true := rfl

end Sys2Proof.Machine
end

