-- ==== Sys2Proof/Laws/Filters.lean ====
section
/-! SUPPORT. What the shared parts of the signal path can do, said once: exact sums, a filter over a
circular buffer that has just been written (spec/41_costas.md R115, 42_elg.md R135, R138), the first
minimum (44_decision.md R172), the reverberator (42_elg.md R141). -/

namespace Sys2Proof.Machine

/-! ### Exact sums -/

theorem sumTo_eq_sum (n : Nat) (f : Nat → Int) : sumTo n f = ((List.range n).map f).sum := by
  induction n with
  | zero => rfl
  | succ k ih => simp [sumTo, ih, List.range_succ]

/-- Changing one term changes the sum by the difference. -/
theorem sumTo_update {n ix : Nat} (f : Nat → Int) (v : Int) (h : ix < n) :
    sumTo n (fun k => if k = ix then v else f k) = sumTo n f + v - f ix := by
  induction n with
  | zero => omega
  | succ m ih =>
    simp only [sumTo]
    by_cases hm : ix < m
    · rw [ih hm, if_neg (by omega)]
      ring
    · obtain rfl : ix = m := by omega
      rw [if_pos rfl, sumTo_congr ix (g := f) fun k hk => if_neg (by omega)]
      ring

/-- A sum whose first term is within `d + d0` and whose others are within `d`. -/
theorem sumTo_abs_le {d d0 : Int} {f : Nat → Int} (n : Nat) (h0 : 0 ≤ d0)
    (h : ∀ k < n, |f k| ≤ if k = 0 then d + d0 else d) : |sumTo n f| ≤ n * d + d0 := by
  induction n with
  | zero => simpa [sumTo]
  | succ m ih =>
    cases m with
    | zero =>
      have := h 0 (by omega)
      simpa [sumTo] using this
    | succ m =>
      have h1 := ih fun k hk => h k (by omega)
      have h2 := h (m + 1) (by omega)
      rw [if_neg (by omega)] at h2
      have h3 := abs_add_le (sumTo (m + 1) f) (f (m + 1))
      rw [sumTo]
      push_cast at *
      linarith

theorem toInt_abs_le (v : BitVec 16) : |v.toInt| ≤ 32768 := by
  have h1 := v.le_toInt
  have h2 := v.toInt_lt
  norm_num at h1 h2
  exact abs_le.2 ⟨by omega, by omega⟩

theorem ofInt16_toInt {v : Int} (h1 : -32768 ≤ v) (h2 : v ≤ 32767) : (BitVec.ofInt 16 v).toInt = v :=
  ofInt_toInt_of_range (by norm_num) (by simpa using h1) (by simpa using h2)

theorem ofInt32_toInt {v : Int} (h1 : -2147483648 ≤ v) (h2 : v ≤ 2147483647) :
    (BitVec.ofInt 32 v).toInt = v :=
  ofInt_toInt_of_range (by norm_num) (by simpa using h1) (by simpa using h2)

/-! ### A filter over a circular buffer -/

theorem tapIndex_lt {ix k len : Nat} (h : 0 < len) : tapIndex ix k len < len := by
  unfold tapIndex
  have := Int.emod_lt_of_pos ((ix : Int) - k) (show (0 : Int) < len by omega)
  have := Int.emod_nonneg ((ix : Int) - k) (show (len : Int) ≠ 0 by omega)
  omega

/-- Only tap 0 reads the entry just written. -/
theorem tapIndex_eq_self {ix k len : Nat} (hix : ix < len) (hk : k < len) :
    tapIndex ix k len = ix ↔ k = 0 := by
  unfold tapIndex
  constructor
  · intro h
    by_contra hk0
    by_cases hle : k ≤ ix
    · rw [Int.emod_eq_of_lt (by omega) (by omega)] at h
      omega
    · rw [show ((ix : Int) - k) = ((ix + len - k : Nat) : Int) - len by omega, Int.sub_emod_right,
        Int.emod_eq_of_lt (by omega) (by omega)] at h
      omega
  · rintro rfl
    rw [Int.emod_eq_of_lt (by omega) (by omega)]
    omega

/-- The filter's sum after the write: the new entry under tap 0, the old ones under the others. -/
theorem firSum_after_write {width len ix : Nat} (coef : Table 16) (line : Table width)
    (v : BitVec width) (hix : ix < len) :
    firSum len coef (tabSet line ix v) ix =
      sumTo len fun k =>
        (tabGet coef k).toInt
          * (if k = 0 then v.toInt else (tabGet line (tapIndex ix k len)).toInt) := by
  unfold firSum
  apply sumTo_congr
  intro k hk
  rw [tabGet_tabSet]
  by_cases h : k = 0
  · rw [if_pos ((tapIndex_eq_self hix hk).2 h), if_pos h]
  · rw [if_neg (fun e => h ((tapIndex_eq_self hix hk).1 e)), if_neg h]

/-- The size of that sum, when the old entries are within `b` and the new one within `b + c`. -/
theorem firSum_after_write_abs_le {width len ix : Nat} (coef : Table 16) (line : Table width)
    (v : BitVec width) {b c : Int} (hix : ix < len) (hc : 0 ≤ c)
    (hold : ∀ k, |(tabGet line k).toInt| ≤ b) (hnew : |v.toInt| ≤ b + c) :
    |firSum len coef (tabSet line ix v) ix| ≤ len * (32768 * b) + 32768 * c := by
  rw [firSum_after_write coef line v hix]
  apply sumTo_abs_le _ (by positivity)
  intro k _
  rw [abs_mul]
  split
  · have := mul_le_mul (toInt_abs_le (tabGet coef k)) hnew (abs_nonneg _) (by norm_num)
    linarith
  · exact mul_le_mul (toInt_abs_le _) (hold _) (abs_nonneg _) (by norm_num)

/-- Dropping 15 fraction bits (floor) keeps a bound that is a multiple of 2^15. -/
theorem asr15_abs_le {r b : Int} (h : |r| ≤ b * 32768) : |asr r 15| ≤ b := by
  rw [abs_le] at h ⊢
  have : asr r 15 = r / 32768 := rfl
  omega

theorem sgn_cases (v : Int) : sgn v = 1 ∨ sgn v = 0 ∨ sgn v = -1 := by
  unfold sgn
  split_ifs <;> simp

/-! ### The first minimum -/

/-- `firstMin` gives the value at its index, which is least, and strictly less than every earlier. -/
theorem firstMin_spec (dist : Nat → Int) (last : Nat) :
    (firstMin dist last).2 = dist (firstMin dist last).1 ∧ (firstMin dist last).1 ≤ last
      ∧ (∀ j ≤ last, dist (firstMin dist last).1 ≤ dist j)
      ∧ ∀ j < (firstMin dist last).1, dist (firstMin dist last).1 < dist j := by
  induction last with
  | zero => simp [firstMin]
  | succ k ih =>
    obtain ⟨a, b, c, d⟩ := ih
    rw [firstMin]
    rcases h : firstMin dist k with ⟨best, least⟩
    rw [h] at a b c d
    simp only at a b c d ⊢
    subst a
    split
    · next hlt =>
      refine ⟨rfl, Nat.le_refl _, fun j hj => ?_, fun j hj => lt_of_lt_of_le hlt (c j (by omega))⟩
      rcases Nat.lt_or_ge j (k + 1) with h1 | h1
      · exact le_of_lt (lt_of_lt_of_le hlt (c j (by omega)))
      · rw [show j = k + 1 by omega]
    · next hlt =>
      refine ⟨rfl, by simp only; omega, fun j hj => ?_, d⟩
      rcases Nat.lt_or_ge j (k + 1) with h1 | h1
      · exact c j (by omega)
      · rw [show j = k + 1 by omega]
        simp only
        omega

/-! ### The reverberator -/

/-- The counter stays below the symbol length. -/
theorem reverberate_cnt_lt {len cnt : Nat} (q det upd : Bool) (h : cnt < len) :
    (reverberate len q det upd cnt).cnt < len := by
  unfold reverberate
  split
  · dsimp only
    split
    · simp only
      omega
    · simp only
      omega
  · split
    · simp only
      omega
    · exact h

/-- A running reverberator with no crossing that may move it. -/
theorem reverberate_running {len cnt : Nat} {q upd : Bool}
    (h : q = false ∨ upd = true ∨ cnt + 1 = len) :
    reverberate len q true upd cnt =
      if cnt + 1 ≥ len then ⟨true, false, 0, true⟩ else ⟨true, upd, cnt + 1, false⟩ := by
  have hn : ¬ (q = true ∧ upd = false ∧ cnt + 1 ≠ len) := by
    rintro ⟨h1, h2, h3⟩
    rcases h with h | h | h
    · rw [h] at h1
      cases h1
    · rw [h] at h2
      cases h2
    · exact h3 h
  simp only [reverberate, nudge, if_neg hn, if_true]

/-- A running reverberator that a crossing moves by one sample. -/
theorem reverberate_nudged {len cnt : Nat} (h : cnt + 1 ≠ len) :
    reverberate len true true false cnt =
      if (if 2 * (cnt + 1) < len then cnt else cnt + 2) ≥ len then ⟨true, false, 0, true⟩
      else ⟨true, true, if 2 * (cnt + 1) < len then cnt else cnt + 2, false⟩ := by
  have hn : nudge len true false (cnt + 1)
      = (if 2 * (cnt + 1) < len then cnt else cnt + 2, true) := by
    unfold nudge
    rw [if_pos ⟨rfl, rfl, h⟩]
    split <;> rfl
  simp only [reverberate, if_true, hn]

end Sys2Proof.Machine
end

