-- ==== Sys2Proof/Laws/PerInstr.lean ====
section
/-! SUPPORT. Statements made per instruction: the four fields of R81 of spec/30_encoding.md stand in
an instruction's word where R81 puts them. -/

namespace Sys2Proof

/-! ### The fields of a joined word -/

theorem fieldOp_joinFields (op t : BitVec 8) (a : BitVec 16) (d : BitVec 32) :
    fieldOp (joinFields op t a d) = op := by
  unfold fieldOp joinFields
  ext k hk
  simp only [BitVec.getElem_extractLsb', BitVec.getLsbD_append]
  simp [show ¬ 56 + k < 32 by omega, show ¬ 56 + k - 32 < 16 by omega,
    show ¬ 56 + k - 32 - 16 < 8 by omega, show 56 + k - 32 - 16 - 8 = k by omega,
    BitVec.getLsbD_eq_getElem hk]

theorem fieldT_joinFields (op t : BitVec 8) (a : BitVec 16) (d : BitVec 32) :
    fieldT (joinFields op t a d) = t := by
  unfold fieldT joinFields
  ext k hk
  simp only [BitVec.getElem_extractLsb', BitVec.getLsbD_append]
  simp [show ¬ 48 + k < 32 by omega, show ¬ 48 + k - 32 < 16 by omega,
    show 48 + k - 32 - 16 = k by omega, BitVec.getLsbD_eq_getElem hk]
  omega

theorem fieldA_joinFields (op t : BitVec 8) (a : BitVec 16) (d : BitVec 32) :
    fieldA (joinFields op t a d) = a := by
  unfold fieldA joinFields
  ext k hk
  simp only [BitVec.getElem_extractLsb', BitVec.getLsbD_append]
  simp [show ¬ 32 + k < 32 by omega, show 32 + k - 32 = k by omega, BitVec.getLsbD_eq_getElem hk]
  omega

theorem fieldD_joinFields (op t : BitVec 8) (a : BitVec 16) (d : BitVec 32) :
    fieldD (joinFields op t a d) = d := by
  unfold fieldD joinFields
  ext k hk
  simp only [BitVec.getElem_extractLsb', BitVec.getLsbD_append]
  simp [BitVec.getLsbD_eq_getElem hk]
  omega

/-- A word is its four fields. -/
theorem joinFields_fields (w : Word) :
    joinFields (fieldOp w) (fieldT w) (fieldA w) (fieldD w) = w := by
  unfold joinFields fieldOp fieldT fieldA fieldD
  ext k hk
  simp only [← BitVec.getLsbD_eq_getElem, BitVec.getLsbD_append, BitVec.getLsbD_extractLsb']
  by_cases h1 : k < 32
  · simp [h1]
  · by_cases h2 : k < 48
    · simp [h1, show k - 32 < 16 by omega, show 32 + (k - 32) = k by omega]
    · by_cases h3 : k < 56
      · simp [h1, show ¬ k - 32 < 16 by omega, show k - 32 - 16 < 8 by omega,
          show 48 + (k - 32 - 16) = k by omega]
      · simp [h1, show ¬ k - 32 < 16 by omega, show ¬ k - 32 - 16 < 8 by omega,
          show k - 32 - 16 - 8 < 8 by omega, show 56 + (k - 32 - 16 - 8) = k by omega]

namespace Laws.EncodedFields

/-- The word of an instruction holds its opcode, selector, address and data where R81 puts them. -/
def Statement (i : Instr) : Prop :=
  i.wellFormed = true ∧ fieldOp (encode i) = opcode i ∧ fieldT (encode i) = encodeT i
    ∧ fieldA (encode i) = encodeA i ∧ fieldD (encode i) = encodeD i

theorem of_wellFormed (i : Instr) (h : i.wellFormed = true) : Statement i :=
  ⟨h, fieldOp_joinFields _ _ _ _, fieldT_joinFields _ _ _ _, fieldA_joinFields _ _ _ _,
    fieldD_joinFields _ _ _ _⟩

theorem nop : Statement (.nop) := of_wellFormed _ rfl
theorem wrreg (n : BitVec 8) (v : Reg) : Statement (.wrreg n v) := of_wellFormed _ rfl
theorem rdreg (n : BitVec 8) : Statement (.rdreg n) := of_wellFormed _ rfl
theorem wrtab (sel : BitVec 8) (idx : BitVec 16) (v : Reg) : Statement (.wrtab sel idx v) := of_wellFormed _ rfl
theorem rdtab (sel : BitVec 8) (idx : BitVec 16) : Statement (.rdtab sel idx) := of_wellFormed _ rfl
theorem clInit : Statement (.clInit) := of_wellFormed _ rfl
theorem clReset : Statement (.clReset) := of_wellFormed _ rfl
theorem clStep (x : Sample) : Statement (.clStep x) := of_wellFormed _ rfl
theorem elInit : Statement (.elInit) := of_wellFormed _ rfl
theorem elReset : Statement (.elReset) := of_wellFormed _ rfl
theorem elStep (x : Sample) : Statement (.elStep x) := of_wellFormed _ rfl
theorem sdInit : Statement (.sdInit) := of_wellFormed _ rfl
theorem sdReset : Statement (.sdReset) := of_wellFormed _ rfl
theorem sdDelay (b : Buffer) (x : Sample) : Statement (.sdDelay b x) := of_wellFormed _ rfl
theorem ddInit : Statement (.ddInit) := of_wellFormed _ rfl
theorem ddReset : Statement (.ddReset) := of_wellFormed _ rfl
theorem ddSlice (pi pq : Sample) : Statement (.ddSlice pi pq) := of_wellFormed _ rfl
theorem ddDiff (cur : BitVec 6) : Statement (.ddDiff cur) := of_wellFormed _ rfl
theorem dmStep (x : Sample) : Statement (.dmStep x) := of_wellFormed _ rfl
theorem dmBurst (p : Bool) : Statement (.dmBurst p) := of_wellFormed _ rfl
theorem dmReset : Statement (.dmReset) := of_wellFormed _ rfl

end Laws.EncodedFields

end Sys2Proof
end

