-- ==== Sys2Proof/Laws/Ports.lean ====
section
/-! SUPPORT. No unit reads LASTERR, the ports or the result registers: what a procedure computes is the
same without them, and what it leaves differs in them alone (spec/10_state.md R37, 60_exceptions.md
R218). -/

namespace Sys2Proof.Machine

/-- `s` with other values in LASTERR and at the ports. -/
def withPorts (s : State) (e : Reg) (c : List PortInput) (r : List Word) : State :=
  { s with lastErr := e, cmdPort := c, rspPort := r }

/-- `s` with another RES_DIQ. -/
def withDiq (s : State) (d : Reg) : State := { s with res := { s.res with diq := d } }

section

variable (s : State) (e : Reg) (c : List PortInput) (r : List Word)

theorem send_eq_withPorts (rsp : Response) :
    send rsp s = withPorts s s.lastErr s.cmdPort (s.rspPort ++ [packResponse rsp]) := rfl

@[simp] theorem withPorts_withPorts (e' : Reg) (c' : List PortInput) (r' : List Word) :
    withPorts (withPorts s e c r) e' c' r' = withPorts s e' c' r' := rfl

@[simp] theorem clOut_withPorts (x : Int) : clOut (withPorts s e c r) x = clOut s x := rfl

theorem clStepState_withPorts (x : Int) :
    clStepState (withPorts s e c r) x = withPorts (clStepState s x) e c r := by
  unfold clStepState
  rw [clOut_withPorts]
  rfl

@[simp] theorem elOut_withPorts (x : Int) : elOut (withPorts s e c r) x = elOut s x := rfl

theorem elStepState_withPorts (x : Int) :
    elStepState (withPorts s e c r) x = withPorts (elStepState s x) e c r := by
  unfold elStepState
  rw [elOut_withPorts]
  rfl

theorem sdDelayState_withPorts (b : Buffer) (x : Int) :
    sdDelayState (withPorts s e c r) b x = withPorts (sdDelayState s b x) e c r := rfl

@[simp] theorem sliceOut_withPorts (i q : Int) : sliceOut (withPorts s e c r) i q = sliceOut s i q :=
  rfl

theorem sliceState_withPorts (i q : Int) :
    sliceState (withPorts s e c r) i q = withPorts (sliceState s i q) e c r := by
  unfold sliceState withPorts
  dsimp only
  split <;> rfl

@[simp] theorem diffOut_withPorts (k : Nat) : diffOut (withPorts s e c r) k = diffOut s k := rfl

theorem diffState_withPorts (k : Nat) :
    diffState (withPorts s e c r) k = withPorts (diffState s k) e c r := rfl

theorem dmLoopState_withPorts (x : Int) :
    dmLoopState (withPorts s e c r) x = withPorts (dmLoopState s x) e c r := by
  unfold dmLoopState
  rw [clOut_withPorts, clStepState_withPorts, elStepState_withPorts]
  rfl

@[simp] theorem dmTrig_withPorts (x : Int) : dmTrig (withPorts s e c r) x = dmTrig s x := by
  unfold dmTrig
  rw [clOut_withPorts, clStepState_withPorts, elOut_withPorts]
  rfl

theorem dmDelayIState_withPorts (x : Int) :
    dmDelayIState (withPorts s e c r) x = withPorts (dmDelayIState s x) e c r := by
  unfold dmDelayIState
  rw [clOut_withPorts, dmLoopState_withPorts, sdDelayState_withPorts]

@[simp] theorem dmDelayedI_withPorts (x : Int) :
    dmDelayedI (withPorts s e c r) x = dmDelayedI s x := by
  unfold dmDelayedI
  rw [dmLoopState_withPorts]
  rfl

@[simp] theorem dmDelayedQ_withPorts (x : Int) :
    dmDelayedQ (withPorts s e c r) x = dmDelayedQ s x := by
  unfold dmDelayedQ
  rw [dmDelayIState_withPorts]
  rfl

end

section

variable (s : State) (d : Reg)

@[simp] theorem sliceOut_withDiq (i q : Int) : sliceOut (withDiq s d) i q = sliceOut s i q := rfl

theorem sliceState_withDiq (i q : Int) :
    sliceState (withDiq s d) i q = withDiq (sliceState s i q) d := by
  unfold sliceState withDiq
  dsimp only
  split <;> rfl

@[simp] theorem diffOut_withDiq (k : Nat) : diffOut (withDiq s d) k = diffOut s k := rfl

theorem diffState_withDiq (k : Nat) : diffState (withDiq s d) k = withDiq (diffState s k) d := rfl

theorem dmDelayState_eq_withDiq (x : Int) :
    dmDelayState s x =
      withDiq (sdDelayState (dmDelayIState s x) .sdb1 (clOut s x).q)
        (pair16 (dmDelayedI s x) (dmDelayedQ s x)) := rfl

end

/-! ### Equal units are equally sound -/

theorem clSound_congr {s t : State} (h1 : t.cl = s.cl) (h2 : t.cfg = s.cfg) (h : clSound s) :
    clSound t := by
  unfold clSound
  rw [h1, h2]
  exact h

theorem elSound_congr {s t : State} (h1 : t.el = s.el) (h2 : t.cfg = s.cfg)
    (h3 : t.trigLat = s.trigLat) (h : elSound s) : elSound t := by
  unfold elSound
  rw [h1, h2, h3]
  exact h

theorem sdSound_congr {s t : State} (h1 : t.sd = s.sd) (h2 : t.cfg = s.cfg) (h : sdSound s) :
    sdSound t := by
  unfold sdSound
  rw [h1, h2]
  exact h

theorem ddSound_congr {s t : State} (h1 : t.dd = s.dd) (h2 : t.cfg = s.cfg) (h : ddSound s) :
    ddSound t := by
  unfold ddSound
  rw [h1, h2]
  exact h

end Sys2Proof.Machine
end

