-- ==== Sys2Proof/Laws/Words.lean ====
section
/-! SUPPORT. The model's packed words and the statements' words are the same words: responses (R86,
R87), LASTERR (R211), STATUS (R28), EL_FLAGS (R31), RES_DEC (R37), the fields of a response, and the
entries RDTAB reads (R62). -/

namespace Sys2Proof.Statements

open Sys2Proof.Machine

theorem bit_eq_toNat (b : Bool) : bit b = b.toNat := by cases b <;> rfl

theorem packResponse_ok (r : Response) (h : r.err = .ok) :
    packResponse r =
      okWord r.fsep r.trk r.gated r.rej r.acc r.trig r.sym.toNat r.idx.toNat r.data.toNat := by
  apply BitVec.eq_of_toNat_eq
  rw [packResponse_toNat]
  unfold okWord
  rw [BitVec.toNat_ofNat, Nat.mod_eq_of_lt]
  · simp [bit_eq_toNat, h, ErrorCode.code]
  · have := r.sym.isLt
    have := r.idx.isLt
    have := r.data.isLt
    have := Bool.toNat_le r.fsep
    have := Bool.toNat_le r.trk
    have := Bool.toNat_le r.gated
    have := Bool.toNat_le r.rej
    have := Bool.toNat_le r.acc
    have := Bool.toNat_le r.trig
    simp only [bit_eq_toNat]
    omega

theorem packResponse_err (e : ErrorCode) : packResponse { err := e } = errWord e.code.toNat := by
  cases e <;> rfl

theorem packResponse_data (v : BitVec 32) : packResponse { data := v } = dataWord v.toNat := by
  rw [packResponse_ok _ rfl]
  simp [okWord, dataWord, bit]

theorem lastErrWord_eq (op : BitVec 8) (e : ErrorCode) (u : UnitId) (c : BitVec 8) :
    lastErrWord op e u c = errRecord op.toNat e.code.toNat u.num.toNat c.toNat := by
  apply BitVec.eq_of_toNat_eq
  rw [lastErrWord_toNat]
  unfold errRecord
  rw [BitVec.toNat_ofNat, Nat.mod_eq_of_lt]
  have := op.isLt
  have := e.code.isLt
  have := u.num.isLt
  have := c.isLt
  omega

/-- `raise`, in the statements' words. -/
theorem raise_eq_failed (op : BitVec 8) (e : ErrorCode) (u : UnitId) (c : BitVec 8) (s : State) :
    raise op e u c s = .next (failed s op.toNat e.code.toNat u.num.toNat c.toNat) := by
  simp [raise, failed, send, packResponse_err, lastErrWord_eq]

/-- `respond`, in the statements' words. -/
theorem respond_eq_replied (r : Response) (s : State) (h : r.err = .ok) :
    respond r s =
      .next (replied s
        (okWord r.fsep r.trk r.gated r.rej r.acc r.trig r.sym.toNat r.idx.toNat r.data.toNat)) := by
  simp [respond, send, replied, packResponse_ok r h]

theorem respond_data_eq_replied (v : BitVec 32) (s : State) :
    respond { data := v } s = .next (replied s (dataWord v.toNat)) := by
  simp [respond, send, replied, packResponse_data]

theorem respond_nil_eq_replied (s : State) : respond {} s = .next (replied s (dataWord 0)) := rfl

theorem statusWord_eq (s : State) : statusWord s = BitVec.ofNat 32 (statusNumber s) := by
  apply BitVec.eq_of_toNat_eq
  have hb : s.bstate.bit = decide (s.bstate = .demodulating) := by cases s.bstate <;> rfl
  unfold statusWord statusNumber
  simp only [toNat_append_add, ofBool_toNat, bit_eq_toNat, BitVec.toNat_ofNat, trk, hb]
  have := Bool.toNat_le s.clRdy
  have := Bool.toNat_le s.elRdy
  have := Bool.toNat_le s.sdRdy
  have := Bool.toNat_le s.ddRdy
  have := Bool.toNat_le (decide (s.bstate = .demodulating))
  have := Bool.toNat_le (decide (s.cfg.clNtrack.toNat ≤ s.dd.decCnt.toNat))
  omega

theorem elFlagsWord_eq (e : ElState) :
    elFlagsWord e = BitVec.ofNat 32 (bit e.pulse + bit e.trigDet * 2 + bit e.trigUpd * 4) := by
  apply BitVec.eq_of_toNat_eq
  unfold elFlagsWord
  simp only [toNat_append_add, ofBool_toNat, bit_eq_toNat, BitVec.toNat_ofNat]
  have := Bool.toNat_le e.pulse
  have := Bool.toNat_le e.trigDet
  have := Bool.toNat_le e.trigUpd
  omega

theorem resDecWord_eq (trig acc rej : Bool) (idx sym : BitVec 8) :
    resDecWord trig acc rej idx sym =
      BitVec.ofNat 32
        (bit trig + bit acc * 2 + bit rej * 4 + idx.toNat * 2 ^ 8 + sym.toNat * 2 ^ 16) := by
  apply BitVec.eq_of_toNat_eq
  unfold resDecWord
  simp only [toNat_append_add, ofBool_toNat, bit_eq_toNat, BitVec.toNat_ofNat]
  have := Bool.toNat_le trig
  have := Bool.toNat_le acc
  have := Bool.toNat_le rej
  have := idx.isLt
  have := sym.isLt
  omega

/-! ### The fields of a response -/

theorem getLsbD_eq_decide (w : Word) (k : Nat) :
    w.getLsbD k = decide (w.toNat / 2 ^ k % 2 = 1) := by
  rw [BitVec.getLsbD, Nat.testBit_eq_decide_div_mod_eq]

theorem packResponse_trig (r : Response) : (packResponse r).getLsbD 48 = r.trig := by
  rw [getLsbD_eq_decide, packResponse_toNat]
  have := r.sym.isLt
  have := r.idx.isLt
  have := r.data.isLt
  cases r.trig <;>
    simp only [Bool.toNat_true, Bool.toNat_false, decide_eq_true_eq, decide_eq_false_iff_not] <;>
    omega

theorem packResponse_acc (r : Response) : (packResponse r).getLsbD 49 = r.acc := by
  rw [getLsbD_eq_decide, packResponse_toNat]
  have := r.sym.isLt
  have := r.idx.isLt
  have := r.data.isLt
  have := Bool.toNat_le r.trig
  cases r.acc <;>
    simp only [Bool.toNat_true, Bool.toNat_false, decide_eq_true_eq, decide_eq_false_iff_not] <;>
    omega

theorem packResponse_rej (r : Response) : (packResponse r).getLsbD 50 = r.rej := by
  rw [getLsbD_eq_decide, packResponse_toNat]
  have := r.sym.isLt
  have := r.idx.isLt
  have := r.data.isLt
  have := Bool.toNat_le r.trig
  have := Bool.toNat_le r.acc
  cases r.rej <;>
    simp only [Bool.toNat_true, Bool.toNat_false, decide_eq_true_eq, decide_eq_false_iff_not] <;>
    omega

theorem packResponse_idx (r : Response) : (packResponse r).toNat / 2 ^ 32 % 2 ^ 8 = r.idx.toNat := by
  rw [packResponse_toNat]
  have := r.sym.isLt
  have := r.idx.isLt
  have := r.data.isLt
  omega

theorem packResponse_sym (r : Response) : (packResponse r).toNat / 2 ^ 40 % 2 ^ 8 = r.sym.toNat := by
  rw [packResponse_toNat]
  have := r.sym.isLt
  have := r.idx.isLt
  have := r.data.isLt
  omega

theorem packResponse_data16 (v : Sample) :
    (packResponse { data := v.setWidth 32 }).extractLsb' 0 16 = v := by
  apply BitVec.eq_of_toNat_eq
  rw [extract_toNat, packResponse_toNat]
  have := v.isLt
  simp [ErrorCode.code]
  omega

/-- The saturation of R11 with its bounds written out. -/
theorem sat16_eq_clamp (v : Int) : sat 16 v = clamp (-32768) 32767 v := by
  unfold sat clamp
  split_ifs <;> simp at * <;> omega

theorem sat32_eq_clamp (v : Int) : sat 32 v = clamp (-2147483648) 2147483647 v := by
  unfold sat clamp
  split_ifs <;> simp at * <;> omega

/-- A sum over taps as the statements write it. -/
theorem firOf_eq_sumTo (len : Nat) (coef old : Nat → Int) (ix : Nat) (new : Int) :
    firOf len coef old ix new =
      ((List.range len).map fun k =>
        coef k * (if k = 0 then new else old (tapIndex ix k len))).sum := rfl

/-- What RDTAB reads is the pattern the statements name (R62). -/
theorem entryPattern_eq_entryRead (s : State) (t : TableId) (k : Nat) :
    entryPattern s t k = entryRead s t k := by
  cases t <;> simp [entryPattern, entryRead, BitVec.signExtend]

end Sys2Proof.Statements
end

