-- ==== Sys2Proof/Tests/Slice0.lean ====
section
/-! SUPPORT. Tests of the model: words and results from spec/95_test_vectors.md (the vector's name
stands in each docstring), and one witness theorem for every statement with hypotheses. -/

namespace Sys2Proof.Tests

open Sys2Proof Sys2Proof.Machine Sys2Proof.Statements

/-! ### Decoding (V1) and refusing (V2) -/

theorem test_decode_nop : decode 0x0000000000000000#64 = .ok .nop := by decide

/-- V1: WRREG CL_ARMLEN, 9. -/
theorem test_decode_wrreg : decode 0x0100000100000009#64 = .ok (.wrreg 0x01#8 9#32) := by decide

/-- V1: WRREG CL_CPI, 0xFFFFFFFF. -/
theorem test_decode_wrreg_all_ones :
    decode 0x01000003FFFFFFFF#64 = .ok (.wrreg 0x03#8 0xFFFFFFFF#32) := by decide

/-- V1: RDREG EL_TRIGLAT. -/
theorem test_decode_rdreg : decode 0x0200005700000000#64 = .ok (.rdreg 0x57#8) := by decide

/-- V1: WRTAB VCOT[2], 0xABCD8001. -/
theorem test_decode_wrtab :
    decode 0x03000002ABCD8001#64 = .ok (.wrtab 0#8 2#16 0xABCD8001#32) := by decide

/-- V1: WRTAB CONST[1], (-4096, 4096). -/
theorem test_decode_wrtab_const :
    decode 0x03040001F0001000#64 = .ok (.wrtab 4#8 1#16 0xF0001000#32) := by decide

/-- V1: RDTAB EGB[3]. -/
theorem test_decode_rdtab : decode 0x040B000300000000#64 = .ok (.rdtab 11#8 3#16) := by decide

theorem test_decode_cl_init : decode 0x1000000000000000#64 = .ok .clInit := by decide

theorem test_decode_cl_reset : decode 0x1100000000000000#64 = .ok .clReset := by decide

/-- V1: CL.STEP -8192. -/
theorem test_decode_cl_step :
    decode 0x120000000000E000#64 = .ok (.clStep (BitVec.ofInt 16 (-8192))) := by decide

theorem test_decode_el_init : decode 0x2000000000000000#64 = .ok .elInit := by decide

theorem test_decode_el_reset : decode 0x2100000000000000#64 = .ok .elReset := by decide

/-- V1: EL.STEP -1000. -/
theorem test_decode_el_step :
    decode 0x220000000000FC18#64 = .ok (.elStep (BitVec.ofInt 16 (-1000))) := by decide

theorem test_decode_sd_init : decode 0x3000000000000000#64 = .ok .sdInit := by decide

theorem test_decode_sd_reset : decode 0x3100000000000000#64 = .ok .sdReset := by decide

/-- V1: SD.DELAY 1, 100. -/
theorem test_decode_sd_delay : decode 0x3201000000000064#64 = .ok (.sdDelay .sdb1 100#16) := by
  decide

theorem test_decode_dd_init : decode 0x4000000000000000#64 = .ok .ddInit := by decide

theorem test_decode_dd_reset : decode 0x4100000000000000#64 = .ok .ddReset := by decide

/-- V1: DD.SLICE 4000, -4100. -/
theorem test_decode_dd_slice :
    decode 0x420000000FA0EFFC#64 = .ok (.ddSlice 4000#16 (BitVec.ofInt 16 (-4100))) := by decide

/-- V1: DD.DIFF 63. -/
theorem test_decode_dd_diff : decode 0x430000000000003F#64 = .ok (.ddDiff 63#6) := by decide

/-- V1: DM.STEP 8192. -/
theorem test_decode_dm_step : decode 0x5000000000002000#64 = .ok (.dmStep 8192#16) := by decide

/-- V1: DM.BURST 1. -/
theorem test_decode_dm_burst : decode 0x5100000000000001#64 = .ok (.dmBurst true) := by decide

theorem test_decode_dm_reset : decode 0x5200000000000000#64 = .ok .dmReset := by decide

/-- The word check refuses V2's words: one for each must-be-zero rule, and unassigned opcodes. -/
theorem test_ill_formed_nop_d : wordWellFormed 0x0000000000000001#64 = false := by decide

theorem test_ill_formed_opcode_05 : wordWellFormed 0x0500000000000000#64 = false := by decide

theorem test_ill_formed_wrreg_a : wordWellFormed 0x0100010100000009#64 = false := by decide

theorem test_ill_formed_wrreg_t : wordWellFormed 0x0101000100000009#64 = false := by decide

theorem test_ill_formed_rdreg_d : wordWellFormed 0x0200004000000001#64 = false := by decide

theorem test_ill_formed_rdtab_d : wordWellFormed 0x0400000000000001#64 = false := by decide

theorem test_ill_formed_cl_init_d : wordWellFormed 0x1000000000000001#64 = false := by decide

theorem test_ill_formed_cl_step_d : wordWellFormed 0x1200000000010000#64 = false := by decide

theorem test_ill_formed_el_step_a : wordWellFormed 0x2200000100000000#64 = false := by decide

theorem test_ill_formed_sd_delay_t : wordWellFormed 0x3202000000000005#64 = false := by decide

theorem test_ill_formed_dd_slice_t : wordWellFormed 0x4201000000000000#64 = false := by decide

theorem test_ill_formed_dd_diff_d : wordWellFormed 0x4300000000000040#64 = false := by decide

theorem test_ill_formed_dm_burst_d : wordWellFormed 0x5100000000000002#64 = false := by decide

theorem test_ill_formed_opcode_53 : wordWellFormed 0x5300000000000000#64 = false := by decide

theorem test_ill_formed_opcode_ff : wordWellFormed 0xFFFFFFFFFFFFFFFF#64 = false := by decide

/-- A 21-command instruction is always well formed (log 10). -/
theorem test_instr_well_formed : (Instr.rdtab 0xFF#8 0xFFFF#16).wellFormed = true := by decide

/-- The table's bit numbers are the word's (log 11): SD.DELAY 1, 0 from its 64 bits. -/
theorem test_decode_table_word :
    decodeTableWord 64 0x3201000000000000 = some (.sdDelay .sdb1 0#16) := by decide

theorem test_decode_table_word_refuses : decodeTableWord 64 0x0500000000000000 = none := by decide

/-- A word presented at reset is what the next step runs (log 3). -/
theorem test_fetch_word :
    (State.reset.withFetchWord 64 0x5100000000000001).cmdPort
      = [.command 0x5100000000000001#64] := by decide

/-! ### One step of every command -/

/-- The state after one step on this word. -/
def after (w : Word) (s : State) : Option State :=
  match step (presentFirst w s) with
  | .next t => some t
  | .fault _ => none
  | .refused _ => none

/-- The responses and LASTERR after one step on this word. -/
def answer (w : Word) (s : State) : Option (List Word × Reg) :=
  (after w s).map fun t => (t.rspPort, t.lastErr)

/-- A configuration with every unit small and legal: V16's loop, V30's gate, SD_LEN = 2, V50's
points. -/
def smallConfig : ConfigRegs where
  clVcoSize := 4#32
  clArmLen := 1#32
  clAlpha := 0#32
  clCpi := 0x40000000#32
  clMiAcq := 0#32
  clMiTrk := 0#32
  clNtrack := 3#32
  clFbMode := 0#32
  elSymLen := 4#32
  elMfShape := 0#32
  elEgLen := 2#32
  elTlLen := 1#32
  elThr := 100#32
  elTmode := 0#32
  sdLen := 2#32
  ddM := 4#32
  ddMagThr := 16777216#32
  dmElgSrc := 0#32

/-- V16's VCOT and ARMC, V30's TLC, V50's CONST, V51's DELTA. -/
def smallTables : HostTables where
  vcot := [(0, 0x7FFF#16), (2, 0x8001#16)]
  armc := [(0, 0x7FFF#16)]
  mfc := []
  tlc := [(0, 0x7FFF#16)]
  const := [(0, 0x10001000#32), (1, 0xF0001000#32), (2, 0xF000F000#32), (3, 0x1000F000#32)]
  delta := [(1, 1#8), (2, 3#8), (3, 2#8)]

/-- A block that holds that configuration, nothing initialised. -/
def loaded : State := { State.reset with cfg := smallConfig, host := smallTables }

/-- The block after its four INIT commands, demodulating. -/
def ready : State :=
  { loaded with
    clRdy := true, elRdy := true, sdRdy := true, ddRdy := true
    trigLat := 2#10, bstate := .demodulating }

theorem test_nop : answer 0x0000000000000000#64 ready = some ([0#64], 0#32) := by decide

/-- V5 row 20: the value is not checked, and DM_ELGSRC clears no flag. -/
theorem test_wrreg_write_any :
    (after 0x01000038FFFFFFFF#64 ready).map (fun t => (t.cfg.dmElgSrc, t.clRdy, t.ddRdy))
      = some (0xFFFFFFFF#32, true, true) := by decide

/-- V5 row 23: a status register is not writable. -/
theorem test_wrreg_status :
    answer 0x0100004000000001#64 State.reset = some ([0x5000000000000000#64], 0x01000105#32) := by
  decide

/-- V5 row 22: STATUS right after reset has TRK = 1. -/
theorem test_rdreg_status :
    answer 0x0200004000000000#64 State.reset = some ([0x20#64], 0#32) := by decide

/-- V5 row 19: register 0x39 does not exist. -/
theorem test_rdreg_missing :
    answer 0x0200003900000000#64 State.reset = some ([0x5000000000000000#64], 0x02000105#32) := by
  decide

/-- V5 row 5: DELTA keeps 8 bits. -/
theorem test_wrtab_delta :
    (after 0x0305003F000001FF#64 State.reset).map (fun t => t.host.delta) = some [(63, 0xFF#8)] := by
  decide

/-- V5 row 15: ARMI is read only. -/
theorem test_wrtab_read_only :
    answer 0x0308000000000001#64 State.reset = some ([0x5000000000000000#64], 0x03000205#32) := by
  decide

/-- V5 row 4: an s16 entry reads sign-extended. -/
theorem test_rdtab_sign_extends :
    answer 0x0400000200000000#64 ready = some ([0x00000000FFFF8001#64], 0#32) := by decide

/-- V5 row 14: ARMI has 255 entries. -/
theorem test_rdtab_capacity :
    answer 0x040800FF00000000#64 State.reset = some ([0x5000000000000000#64], 0x04000305#32) := by
  decide

/-- V17: an even CL_ARMLEN of 256 is reported as even, not as too long. -/
theorem test_cl_init_even_first :
    answer 0x1000000000000000#64
        { State.reset with
          cfg := { ConfigRegs.zero with clVcoSize := 4#32, clArmLen := 256#32 } }
      = some ([0x2000000000000000#64], 0x10000312#32) := by decide

/-- V17: success leaves CL READY. -/
theorem test_cl_init_ready :
    (after 0x1000000000000000#64 loaded).map (fun t => (t.clRdy, t.rspPort))
      = some (true, [0#64]) := by decide

/-- P4 row 16: CL.RESET does not make the unit READY. -/
theorem test_cl_reset :
    (after 0x1100000000000000#64 { loaded with cl := { ClState.zero with ph := 5#32 } }).map
        (fun t => (t.cl.ph, t.clRdy)) = some (0#32, false) := by decide

/-- V16 step 1 (TRK = 0 here: CL_NTRACK is 3). -/
theorem test_cl_step_first :
    (after 0x1200000000002000#64 ready).map (fun t => (t.rspPort, t.cl.ph))
      = some ([0x000000001FFE0000#64], 0x40000000#32) := by decide

/-- V16 step 2: the quadrature arm, with a negative reference. -/
theorem test_cl_step_second :
    (after 0x120000000000F060#64
        { ready with
          cl := { ClState.zero with ph := 0x40000000#32, armi := [(0, 8191#16)] } }).map
        (fun t => (t.rspPort, t.cl.armq)) = some ([0x0000000000000F9E#64], [(0, 3999#16)]) := by
  decide

/-- V36 row 6: EL_TLLEN = 257. -/
theorem test_el_init_tllen :
    answer 0x2000000000000000#64
        { State.reset with
          cfg := { ConfigRegs.zero with
                   elSymLen := 16#32, elEgLen := 8#32, elTlLen := 257#32 } }
      = some ([0x4000000000000000#64], 0x20000624#32) := by decide

/-- V32, last row: the longest latency. -/
theorem test_el_init_latency :
    (after 0x2000000000000000#64
        { State.reset with
          cfg := { ConfigRegs.zero with
                   elSymLen := 256#32, elEgLen := 256#32, elTlLen := 255#32, elTmode := 1#32 } }).map
        (fun t => (t.rspPort, t.trigLat)) = some ([510#64], 510#10) := by decide

/-- P2: EL.RESET keeps EL_TRIGLAT and EL_RDY. -/
theorem test_el_reset :
    (after 0x2100000000000000#64 { ready with el := { ElState.zero with pulse := true } }).map
        (fun t => (t.el.pulse, t.trigLat, t.elRdy)) = some (false, 2#10, true) := by decide

/-- The state of V30 after its row n = 3. -/
def gateRow3 : State :=
  { ready with
    el :=
      { ElState.zero with
        mfSum := 4000#32, zcPrev := BitVec.ofInt 32 (-2000), pulse := true
        mfb := [(0, 1000#16), (1, 1000#16), (2, 1000#16), (3, 1000#16)]
        egb := [(0, 3000#32), (1, 4000#32)], tlb := [(0, BitVec.ofInt 32 (-2000))] } }

/-- V30 row n = 4: the first qualifying crossing. -/
theorem test_el_step_trigger :
    (after 0x220000000000FC18#64 gateRow3).map
        (fun t => (t.rspPort, t.el.mfSum, t.el.zcPrev, t.el.trigDet, t.el.pulse))
      = some ([0x0001000000000000#64], 2000#32, 999#32, true, false) := by decide

/-- V30 row n = 0 on the fresh unit. -/
theorem test_el_step_arms :
    (after 0x22000000000003E8#64 ready).map
        (fun t => (t.rspPort, t.el.zcPrev, t.el.pulse, t.el.mfIx))
      = some ([0#64], BitVec.ofInt 32 (-1000), true, 1#9) := by decide

/-- V40 row 3: SD_LEN = 1025. -/
theorem test_sd_init_too_long :
    answer 0x3000000000000000#64
        { State.reset with cfg := { ConfigRegs.zero with sdLen := 1025#32 } }
      = some ([0x4000000000000000#64], 0x30000234#32) := by decide

/-- V40 row 17. -/
theorem test_sd_reset :
    (after 0x3100000000000000#64 { ready with sd := { SdState.zero with ix0 := 1#10 } }).map
        (fun t => (t.sd.ix0, t.sdRdy)) = some (0#10, true) := by decide

/-- V40 row 7: the delayed sample is not sign-extended. -/
theorem test_sd_delay_reads_oldest :
    (after 0x3201000000000009#64
        { ready with sd := { SdState.zero with ix1 := 1#10, sdb1 := [(1, 0xFFF8#16)] } }).map
        (fun t => (t.rspPort, t.sd.ix1, t.sd.sdb1, t.sd.ix0))
      = some ([0x000000000000FFF8#64], 0#10, [(1, 9#16)], 0#10) := by decide

/-- V40 row 1: SD.DELAY before SD.INIT. -/
theorem test_sd_delay_not_ready :
    answer 0x3200000000000005#64 State.reset = some ([0x3000000000000000#64], 0x32000033#32) := by
  decide

/-- V54: DD_M = 65. -/
theorem test_dd_init_too_many :
    answer 0x4000000000000000#64 { State.reset with cfg := { ConfigRegs.zero with ddM := 65#32 } }
      = some ([0x4000000000000000#64], 0x40000244#32) := by decide

/-- V51 row 7: DD.RESET clears the previous index. -/
theorem test_dd_reset :
    (after 0x4100000000000000#64 { ready with dd := { prev := 3#6, decCnt := 9#16 } }).map
        (fun t => (t.dd.prev, t.dd.decCnt)) = some (0#6, 0#16) := by decide

/-- V50 row 1. -/
theorem test_dd_slice_accepts :
    (after 0x420000000FA0EFFC#64 ready).map (fun t => (t.rspPort, t.dd.decCnt))
      = some ([0x0002000300000000#64], 1#16) := by decide

/-- V50 row 5: just under the gate. -/
theorem test_dd_slice_rejects :
    (after 0x42000000F4B0F4B0#64 ready).map (fun t => (t.rspPort, t.dd.decCnt))
      = some ([0x000400FF00000000#64], 0#16) := by decide

/-- V51 row 2: the index difference wraps. -/
theorem test_dd_diff_wraps :
    (after 0x4300000000000001#64 { ready with dd := { DdState.zero with prev := 2#6 } }).map
        (fun t => (t.rspPort, t.dd.prev)) = some ([0x0000020000000000#64], 1#6) := by decide

/-- V51 row 6: an index that is not below DD_M. -/
theorem test_dd_diff_operand :
    answer 0x4300000000000004#64 ready = some ([0x6000000000000000#64], 0x43000146#32) := by
  decide

/-- P4 row 35: gated in RESET. -/
theorem test_dm_step_gated :
    answer 0x5000000000000005#64 { ready with bstate := .reset }
      = some ([0x0008000000000000#64], 0#32) := by decide

/-- P4 rows 38 and 39, with VCOT all zero: no trigger, RES_DEC = 0xFF00. -/
theorem test_dm_step_no_trigger :
    (after 0x5000000000000005#64 { ready with host := HostTables.zero }).map
        (fun t => (t.rspPort, t.res.dec, t.sd.ix0, t.sd.ix1))
      = some ([0x000000FF00000000#64], 0xFF00#32, 1#10, 1#10) := by decide

/-- P4 row 37. -/
theorem test_dm_burst_starts :
    (after 0x5100000000000001#64 { ready with bstate := .reset }).map
        (fun t => (t.rspPort, t.bstate)) = some ([1#64], .demodulating) := by decide

/-- P4 row 40: the frame separator. -/
theorem test_dm_burst_ends :
    (after 0x5100000000000000#64 { ready with res := { Results.zero with dec := 0xFF00#32 } }).map
        (fun t => (t.rspPort, t.res.dec, t.bstate)) = some ([0x0020000000000000#64], 0#32, .reset) := by
  decide

/-- P4 row 42, from the demodulating state: no frame separator. -/
theorem test_dm_reset :
    (after 0x5200000000000000#64 ready).map (fun t => (t.rspPort, t.bstate, t.clRdy))
      = some ([0#64], .reset, true) := by decide

/-- V10, the last rows with a quadrature wrap. -/
theorem test_vidx :
    (vidx 16 0xFFFFFFFF#32, vidx 16 (0xFFFFFFFF#32 + 0x40000000#32), vidx 3 0xAAAAAAAB#32)
      = (15, 3, 2) := by decide

/-- V11: floor, and the one saturating case. -/
theorem test_mix :
    (mix (-1) 32767, mix (-32768) (-32768), mix 3 (-16384)) = (-1, 32767, -2) := by decide

/-- V12, rows 2, 8, 9 in one mode each (log 12 for row 9, mode 0). -/
theorem test_phase_error :
    (phaseError 2 1000 (-300), phaseError 1 (-32768) (-32768), phaseError 0 32767 (-32768))
      = (700, 32768, -32768) := by decide

/-- V13: floor of a negative product, and saturation. -/
theorem test_loop_filter :
    (loopFilter 0x8000 (-1) 0, loopFilter 0xFFFF 2147483647 65535) = (-1, 2147483647) := by
  decide

/-- V14, row 4. -/
theorem test_nco_advance : ncoAdvance 0#32 0x40000000#32 (-4194304) 65536 = 0x3FC00000#32 := by
  decide

/-- V35: held back, pushed on, pushed to the period's end. -/
theorem test_reverberate :
    [reverberate 16 true true false 2, reverberate 16 true true false 7,
        reverberate 16 true true false 14]
      = [⟨true, true, 2, false⟩, ⟨true, true, 9, false⟩, ⟨true, false, 0, true⟩] := by decide

/-! ### Witnesses: the hypotheses of every statement can be met together -/

theorem witness_DecodeOfEncodeIsTheCommand :
    (Instr.wrtab 0xFF#8 0xFFFF#16 0xFFFFFFFF#32).wellFormed = true
      ∧ (Instr.ddDiff 63#6).wellFormed = true := by decide

theorem witness_EncodeOfDecodeIsTheWord :
    decode 0x03FFFFFFFFFFFFFF#64 = .ok (.wrtab 0xFF#8 0xFFFF#16 0xFFFFFFFF#32) := by decide

/-- The last row of the map, and the row of the shortest operand. -/
theorem witness_DecodeAcceptsExactlyTheMappedWords :
    decode 0x5100000000000001#64 = .ok (.dmBurst true)
      ∧ (⟨"DM.BURST", 0x5100000000000000#64, 0xFFFFFFFFFFFFFFFE#64⟩ : OpcodeRow) ∈ opcodeMap
      ∧ 0x5100000000000001#64 &&& 0xFFFFFFFFFFFFFFFE#64 = 0x5100000000000000#64 := by decide

theorem witness_AtMostOneRowMatches :
    (⟨"SD.DELAY", 0x3200000000000000#64, 0xFFFEFFFFFFFF0000#64⟩ : OpcodeRow) ∈ opcodeMap
      ∧ 0x320100000000FFFF#64 &&& 0xFFFEFFFFFFFF0000#64 = 0x3200000000000000#64 := by decide

theorem witness_StepRunsDecodedCommand :
    (presentFirst 0x5200000000000000#64 ready).cmdPort = .command 0x5200000000000000#64 :: []
      ∧ decode 0x5200000000000000#64 = .ok .dmReset := by decide

theorem witness_IllegalWordRaisesIllegalCommand :
    (presentFirst 0x5300000000000000#64 ready).cmdPort = .command 0x5300000000000000#64 :: []
      ∧ ∀ r ∈ opcodeMap, 0x5300000000000000#64 &&& r.mask ≠ r.pattern := by decide

theorem witness_HardwareResetGivesTheResetState :
    ({ ready with cmdPort := [.rst] } : State).cmdPort = .rst :: [] := by decide

theorem witness_IdleBlockHoldsItsState : ready.cmdPort = [] := by decide

theorem witness_OneResponsePerCommand : exec .ddReset ready = .next (send {} (ddClear ready)) := rfl

/-- A command that completes and one that fails. -/
theorem witness_LastErrRecordsExactlyTheFailures :
    (∃ t w, exec .nop ready = .next t ∧ t.rspPort = ready.rspPort ++ [w] ∧ w.toNat / 2 ^ 60 = 0)
      ∧ ∃ t w, exec (.rdreg 0x39#8) ready = .next t ∧ t.rspPort = ready.rspPort ++ [w]
          ∧ w.toNat / 2 ^ 60 = 5 :=
  ⟨⟨_, _, rfl, rfl, by decide⟩, ⟨_, _, rfl, rfl, by decide⟩⟩

/-- A failing INIT of a unit that was READY, and a failing command that is no INIT. -/
theorem witness_FailingCommandsArePrecise :
    (∃ t w, exec .sdInit { State.reset with sdRdy := true } = .next t
        ∧ t.rspPort = State.reset.rspPort ++ [w] ∧ w.toNat / 2 ^ 60 ≠ 0 ∧ t.sdRdy = false)
      ∧ ∃ t w, exec (.ddDiff 4#6) ready = .next t ∧ t.rspPort = ready.rspPort ++ [w]
          ∧ w.toNat / 2 ^ 60 ≠ 0 :=
  ⟨⟨_, _, rfl, rfl, by decide, by decide⟩, ⟨_, _, rfl, rfl, by decide⟩⟩

/-- Each flag changes once by its INIT and once by a WRREG of its owner's registers. -/
theorem witness_ReadyFlagsOnlyByInitAndWrreg :
    (∃ t, exec .clInit loaded = .next t ∧ t.clRdy ≠ loaded.clRdy)
      ∧ (∃ t, exec .elInit loaded = .next t ∧ t.elRdy ≠ loaded.elRdy)
      ∧ (∃ t, exec .sdInit loaded = .next t ∧ t.sdRdy ≠ loaded.sdRdy)
      ∧ (∃ t, exec .ddInit loaded = .next t ∧ t.ddRdy ≠ loaded.ddRdy)
      ∧ (∃ t, exec (.wrreg 0x07#8 0#32) ready = .next t ∧ t.clRdy ≠ ready.clRdy)
      ∧ (∃ t, exec (.wrreg 0x15#8 0#32) ready = .next t ∧ t.elRdy ≠ ready.elRdy)
      ∧ (∃ t, exec (.wrreg 0x20#8 2#32) ready = .next t ∧ t.sdRdy ≠ ready.sdRdy)
      ∧ ∃ t, exec (.wrreg 0x31#8 0#32) ready = .next t ∧ t.ddRdy ≠ ready.ddRdy :=
  ⟨⟨_, rfl, by decide⟩, ⟨_, rfl, by decide⟩, ⟨_, rfl, by decide⟩, ⟨_, rfl, by decide⟩,
    ⟨_, rfl, by decide⟩, ⟨_, rfl, by decide⟩, ⟨_, rfl, by decide⟩, ⟨_, rfl, by decide⟩⟩

theorem witness_ConfigAndHostTablesOnlyByWrites :
    (∃ t, exec (.wrtab 5#8 63#16 1#32) ready = .next t)
      ∧ (∀ n v, Instr.wrtab 5#8 63#16 1#32 ≠ .wrreg n v)
      ∧ (∃ t, exec (.wrreg 0x38#8 1#32) ready = .next t)
      ∧ ∀ sel k v, Instr.wrreg 0x38#8 1#32 ≠ .wrtab sel k v :=
  ⟨⟨_, rfl⟩, (fun _ _ h => by cases h), ⟨_, rfl⟩, (fun _ _ _ h => by cases h)⟩

theorem witness_BurstStateAndLatencyWriters :
    (∃ t, exec .elInit loaded = .next t) ∧ (∀ p, Instr.elInit ≠ .dmBurst p)
      ∧ Instr.elInit ≠ .dmReset ∧ (∃ t, exec .dmReset ready = .next t) ∧ Instr.dmReset ≠ .elInit :=
  ⟨⟨_, rfl⟩, (fun _ h => by cases h), by decide, ⟨_, rfl⟩, by decide⟩

/-- Every index at the last entry of its length. -/
def readyAtEnds : State :=
  { ready with
    el := { ElState.zero with mfIx := 3#9, egIx := 1#9, trigCnt := 3#9, trigDet := true }
    sd := { SdState.zero with ix0 := 1#10, ix1 := 1#10 }
    dd := { DdState.zero with prev := 3#6, decCnt := 65535#16 } }

theorem readySound_readyAtEnds : readySound readyAtEnds := by decide

theorem readySound_ready : readySound ready := by decide

/-- A step that changes a unit of a state at the ends of its ranges. -/
theorem witness_ReadyUnitsStaySound :
    readySound readyAtEnds
      ∧ ∃ t, step (presentFirst 0x3200000000000001#64 readyAtEnds) = .next t :=
  ⟨readySound_readyAtEnds, ⟨_, rfl⟩⟩

theorem witness_TablesStayCanonical :
    Memory.wf (presentFirst 0x0305003F00000001#64 ready) = true
      ∧ ∃ t, step (presentFirst 0x0305003F00000001#64 ready) = .next t :=
  ⟨by decide, ⟨_, rfl⟩⟩

theorem elBounded_of_empty {s : State} (h1 : s.el.egb = []) (h2 : s.el.tlb = [])
    (h3 : s.el.mfSum = 0#32) (h4 : s.el.zcPrev = 0#32) : elBounded s := by
  unfold elBounded
  rw [h1, h2, h3, h4]
  refine ⟨by decide, fun i => ?_, fun i => ?_, by decide⟩ <;>
    (show within (2 ^ 23) (0#32).toInt; decide)

theorem saneState_readyAtEnds : saneState (presentFirst 0x5200000000000000#64 readyAtEnds) := by
  refine ⟨by decide, readySound_readyAtEnds, by decide, by decide,
    elBounded_of_empty rfl rfl rfl rfl, ?_⟩
  intro _ _
  decide

theorem witness_SaneStatesStaySane :
    saneState (presentFirst 0x5200000000000000#64 readyAtEnds)
      ∧ ∃ t, step (presentFirst 0x5200000000000000#64 readyAtEnds) = .next t :=
  ⟨saneState_readyAtEnds, ⟨_, rfl⟩⟩

theorem witness_SoundBlockNeverStops : readySound ready := readySound_ready

/-- Every unit READY with an index one past its last entry. -/
def readyPastEnds : State :=
  { ready with
    cl := { ClState.zero with aixI := 1#8, aixQ := 1#8 }
    el := { ElState.zero with mfIx := 4#9 }
    sd := { SdState.zero with ix0 := 2#10 }
    dd := { DdState.zero with prev := 4#6 } }

theorem witness_UnsoundUnitStopsByName :
    (readyPastEnds.clRdy = true ∧ ¬ clSound readyPastEnds)
      ∧ (readyPastEnds.elRdy = true ∧ ¬ elSound readyPastEnds)
      ∧ (readyPastEnds.sdRdy = true ∧ ¬ sdSound readyPastEnds)
      ∧ (readyPastEnds.ddRdy = true ∧ ¬ ddSound readyPastEnds)
      ∧ (3#6).toNat < readyPastEnds.cfg.ddM.toNat := by decide

theorem witness_LastErrIsInvisible :
    ∀ w, PortInput.command w ∈ [PortInput.command 0x0200004000000000#64, .rst] →
      decode w ≠ .ok (.rdreg 0x41#8) := by
  intro w h
  simp only [List.mem_cons, PortInput.command.injEq, reduceCtorEq, List.not_mem_nil, or_false] at h
  rw [h]
  decide

theorem witness_DmResetEqualsFreshInit :
    readyAtEnds.clRdy = true ∧ readyAtEnds.elRdy = true ∧ readyAtEnds.sdRdy = true
      ∧ readyAtEnds.ddRdy = true ∧ readySound readyAtEnds :=
  ⟨rfl, rfl, rfl, rfl, readySound_readyAtEnds⟩

theorem witness_NopOnlyAnswersZero :
    (0x0000000000000001#64).toNat / 2 ^ 56 = 0 ∧ 0x0000000000000001#64 ≠ 0#64
      ∧ (0x0080000000000000#64).toNat / 2 ^ 56 = 0 ∧ 0x0080000000000000#64 ≠ 0#64 := by decide

/-- The ends of the owners' ranges, and the numbers just past them. -/
theorem witness_WrregWritesOrRaises :
    [0x00, 0x07, 0x10, 0x15, 0x20, 0x30, 0x31, 0x38].all (· ∈ configNumbers) = true
      ∧ [0x08, 0x0F, 0x16, 0x21, 0x32, 0x39, 0x40, 0xFF].all (· ∉ configNumbers) = true := by decide

theorem witness_RdregAnswersOrRaises :
    (0x38, 0#32) ∈ configValues ready ++ statusValues ready
      ∧ (0x7A, 0#32) ∈ configValues ready ++ statusValues ready
      ∧ (0x7B#8).toNat ∉ (configValues ready ++ statusValues ready).map Prod.fst := by decide

/-- Each of the four clauses at a boundary of its range. -/
theorem witness_WrtabStoresOneEntryOrRaises :
    (((5#8).toNat, .delta, 64) ∈ tableMap ∧ (5#8).toNat ≤ 5 ∧ (63#16).toNat < 64)
      ∧ (((1#8).toNat, .armc, 255) ∈ tableMap ∧ (1#8).toNat ≤ 5 ∧ (254#16).toNat < 255)
      ∧ 5 < (6#8).toNat ∧ 5 < (8#8).toNat
      ∧ (((1#8).toNat, .armc, 255) ∈ tableMap ∧ (1#8).toNat ≤ 5 ∧ 255 ≤ (255#16).toNat) := by decide

theorem witness_RdtabAnswersOrRaises :
    ((14#8).toNat, TableId.sdb1, 1024) ∈ tableMap ∧ (1023#16).toNat < 1024
      ∧ ¬ (1024#16).toNat < 1024 ∧ (7#8).toNat ∉ tableMap.map Prod.fst
      ∧ (15#8).toNat ∉ tableMap.map Prod.fst := by decide

theorem witness_TriggerLatencyRange :
    elLegal { ConfigRegs.zero with elSymLen := 1#32, elEgLen := 1#32, elTlLen := 1#32 }
      ∧ elLegal { ConfigRegs.zero with
                  elSymLen := 256#32, elEgLen := 256#32, elTlLen := 255#32, elTmode := 1#32 } := by
  decide

theorem witness_StepCommandsNeedReady :
    State.reset.clRdy = false ∧ State.reset.elRdy = false ∧ State.reset.sdRdy = false
      ∧ State.reset.ddRdy = false := by decide

theorem witness_ClStepComputesTheLoop : ready.clRdy = true ∧ clSound ready := by decide

theorem witness_NcoIndexIsInsideTheTable : 1 ≤ 1 ∧ 1 ≤ 1024 := by decide

/-- Waiting, and running with the counter at its last value. -/
theorem witness_ElStepComputesTheGate :
    (ready.elRdy = true ∧ elSound ready ∧ elBounded ready ∧ ready.el.trigDet = false)
      ∧ (readyAtEnds.elRdy = true ∧ elSound readyAtEnds ∧ elBounded readyAtEnds
          ∧ readyAtEnds.el.trigDet = true) :=
  ⟨⟨rfl, by decide, elBounded_of_empty rfl rfl rfl rfl, rfl⟩,
    ⟨rfl, by decide, elBounded_of_empty rfl rfl rfl rfl, rfl⟩⟩

/-- A sample of 50 gives a filtered error of -50, above -EL_THR = -100. -/
theorem witness_NoTriggerBelowThreshold :
    ready.elRdy = true ∧ elSound ready ∧ elBounded ready ∧ ready.el.pulse = false
      ∧ ready.el.trigDet = false
      ∧ ∃ t, exec (.elStep 50#16) ready = .next t
          ∧ -(ready.cfg.elThr.toNat : Int) < t.el.zcPrev.toInt :=
  ⟨rfl, by decide, elBounded_of_empty rfl rfl rfl rfl, rfl, rfl, ⟨_, rfl, by decide⟩⟩

theorem witness_ReverberatorFreeRuns : 1 ≤ 1 ∧ 1 ≤ 256 := by decide

/-- S = 1 and S = 3, a crossing at every step. -/
theorem witness_TriggersAreNeverCloser :
    (1 ≤ 1 ∧ 1 + 1 ≤ [true, true].length) ∧ (1 ≤ 3 ∧ 3 + 1 ≤ [true, true, true, true].length) := by
  decide

theorem witness_SdDelayReadsOldestWritesNewest :
    readyAtEnds.sdRdy = true ∧ sdSound readyAtEnds := by decide

theorem witness_SdDelayReadsOldestWritesNewest_notReady : State.reset.sdRdy = false := rfl

theorem witness_DelayLaw : (1 ≤ 1 ∧ 1 ≤ 1024) ∧ (1 ≤ 1024 ∧ 1024 ≤ 1024) := by decide

/-- V50 rows 5 and 8: just under the gate, and equal to it. -/
theorem witness_DdSliceAnswersTheNearestPoint :
    ready.ddRdy = true ∧ ddSound ready
      ∧ (-2896 : Int) * -2896 + -2896 * -2896 < (ready.cfg.ddMagThr.toNat : Int)
      ∧ (ready.cfg.ddMagThr.toNat : Int) ≤ 4096 * 4096 + 0 * 0 := by decide

theorem witness_DdDiffDecodesTheChange :
    readyAtEnds.ddRdy = true ∧ ddSound readyAtEnds ∧ (3#6).toNat < readyAtEnds.cfg.ddM.toNat
      ∧ readyAtEnds.cfg.ddM.toNat ≤ (4#6).toNat := by decide

/-- The not-READY clause of DD.SLICE and DD.DIFF. -/
theorem witness_DdSliceAndDiff_notReady : State.reset.ddRdy = false := rfl

theorem witness_RotationInvariance : (3 < 4 ∧ 0 < 4) ∧ (0 < 1 ∧ 0 < 1) := by decide

/-- One state for each clause, each clause's check the first that fails. -/
theorem witness_DmStepChecksThenGate :
    ({ ready with clRdy := false } : State).clRdy = false
      ∧ ({ ready with elRdy := false } : State).clRdy = true
      ∧ ({ ready with elRdy := false } : State).elRdy = false
      ∧ ({ ready with sdRdy := false } : State).elRdy = true
      ∧ ({ ready with sdRdy := false } : State).sdRdy = false
      ∧ ({ ready with ddRdy := false } : State).sdRdy = true
      ∧ ({ ready with ddRdy := false } : State).ddRdy = false
      ∧ 1 < ({ ready with cfg := { smallConfig with dmElgSrc := 2#32 } } : State).cfg.dmElgSrc.toNat
      ∧ ({ ready with bstate := .reset, cfg := { smallConfig with dmElgSrc := 1#32 } }
          : State).cfg.dmElgSrc.toNat ≤ 1 := by decide

theorem witness_DmStepIsTheUnitsInOrder :
    ready.clRdy = true ∧ ready.elRdy = true ∧ ready.sdRdy = true ∧ ready.ddRdy = true
      ∧ readySound ready ∧ ready.cfg.dmElgSrc.toNat ≤ 1 ∧ ready.bstate = .demodulating :=
  ⟨rfl, rfl, rfl, rfl, readySound_ready, by decide, rfl⟩

theorem witness_DmBurstFourCases :
    State.reset.bstate = .reset ∧ ready.bstate = .demodulating := by decide

end Sys2Proof.Tests
end

section
/-! PROOFS. What a command leaves (spec/30_encoding.md R84, 60_exceptions.md R211), said once for all 21
commands: the state a completing command leaves, the state a failing one leaves, and the two ends
`exec` can come to. Every invariant of spec/10_state.md below is read off these two lists. -/

namespace Sys2Proof.Machine

/-! ### The states a command leaves -/

/-- The state in which a command raises its error: an INIT has cleared its own READY flag before it
checks anything (R110, R130, R160, R170), no other command has written. -/
def initCleared (i : Instr) (s : State) : State :=
  { s with
    clRdy := if i = .clInit then false else s.clRdy
    elRdy := if i = .elInit then false else s.elRdy
    sdRdy := if i = .sdInit then false else s.sdRdy
    ddRdy := if i = .ddInit then false else s.ddRdy }

/-- `Completes s i u`: the command `i` runs to its end in the state `s`, and `u` is the state it
leaves, before the response is sent. The hypotheses are the checks it has passed. -/
inductive Completes (s : State) : Instr → State → Prop
  | nop : Completes s .nop s
  | wrreg (n : BitVec 8) (v : Reg) (r : ConfigReg) (hr : configRegOf n = some r) :
      Completes s (.wrreg n v) (clearReady (ownerOf r) { s with cfg := cfgWrite s.cfg r v })
  | rdreg (n : BitVec 8) : Completes s (.rdreg n) s
  | wrtab (sel : BitVec 8) (idx : BitVec 16) (v : Reg) (t : TableId) (ht : tableOf sel = some t)
      (hw : hostWritable t = true) (hi : idx.toNat < capacity t) :
      Completes s (.wrtab sel idx v) (entryWrite s t idx.toNat v)
  | rdtab (sel : BitVec 8) (idx : BitVec 16) : Completes s (.rdtab sel idx) s
  | clInit (hl : clLegal s.cfg) : Completes s .clInit { clClear s with clRdy := true }
  | clReset : Completes s .clReset (clClear s)
  | clStep (x : Sample) (hr : s.clRdy = true) (hs : clSound s) :
      Completes s (.clStep x) (clStepState s (sampleOf x))
  | elInit (hl : elLegal s.cfg) :
      Completes s .elInit
        { elClear s with trigLat := BitVec.ofNat 10 (trigLatency s.cfg), elRdy := true }
  | elReset : Completes s .elReset (elClear s)
  | elStep (x : Sample) (hr : s.elRdy = true) (hs : elSound s) :
      Completes s (.elStep x) (elStepState s (sampleOf x))
  | sdInit (hl : sdLegal s.cfg) : Completes s .sdInit { sdClear s with sdRdy := true }
  | sdReset : Completes s .sdReset (sdClear s)
  | sdDelay (b : Buffer) (x : Sample) (hr : s.sdRdy = true) (hs : sdSound s) :
      Completes s (.sdDelay b x) (sdDelayState s b (sampleOf x))
  | ddInit (hl : ddLegal s.cfg) : Completes s .ddInit { ddClear s with ddRdy := true }
  | ddReset : Completes s .ddReset (ddClear s)
  | ddSlice (pi pq : Sample) (hr : s.ddRdy = true) (hs : ddSound s) :
      Completes s (.ddSlice pi pq) (sliceState s (sampleOf pi) (sampleOf pq))
  | ddDiff (cur : BitVec 6) (hr : s.ddRdy = true) (hs : ddSound s)
      (hc : cur.toNat < s.cfg.ddM.toNat) : Completes s (.ddDiff cur) (diffState s cur.toNat)
  | dmGated (x : Sample) : Completes s (.dmStep x) s
  | dmStep (x : Sample) (hcr : s.clRdy = true) (her : s.elRdy = true) (hsr : s.sdRdy = true)
      (hdr : s.ddRdy = true) (hcs : clSound s) (hes : elSound s) (hss : sdSound s)
      (hds : ddSound s) : Completes s (.dmStep x) (dmStepState s (sampleOf x))
  | burstKept (p : Bool) : Completes s (.dmBurst p) s
  | burstStarts (hb : s.bstate = .reset) :
      Completes s (.dmBurst true) { s with bstate := .demodulating }
  | burstEnds (hb : s.bstate = .demodulating) :
      Completes s (.dmBurst false) { flush s with bstate := .reset }
  | dmReset : Completes s .dmReset { flush s with bstate := .reset }

/-- How a command that does not stop ends: it completes and answers with ERR = 0, or it fails and
writes LASTERR and the code alone (R87, R211). -/
inductive Ends (i : Instr) (s : State) : State → Prop
  | completed {u : State} {r : Response} (hok : r.err = .ok) (hc : Completes s i u) :
      Ends i s (send r u)
  | failed {e : ErrorCode} {v : UnitId} {c : BitVec 8} (he : e ≠ .ok) :
      Ends i s
        (send { err := e } { initCleared i s with lastErr := lastErrWord (opcode i) e v c })

section

variable {i : Instr} {s t u : State}

theorem ends_of_respond {r : Response} (h : respond r u = .next t) (hok : r.err = .ok)
    (hc : Completes s i u) : Ends i s t := by
  cases h
  exact .completed hok hc

/-- A failing command that is no INIT, or an INIT that has cleared its flag. -/
theorem ends_of_raise {e : ErrorCode} {v : UnitId} {c : BitVec 8}
    (h : raise (opcode i) e v c u = .next t) (he : e ≠ .ok) (hu : u = initCleared i s) :
    Ends i s t := by
  subst hu
  cases h
  exact .failed he

end

/-! ### No check of an INIT answers code 0 -/

theorem clInitCheck_ne_ok {c : ConfigRegs} {e : ErrorCode} {k : BitVec 8}
    (h : clInitCheck c = some (e, k)) : e ≠ .ok := by
  rintro rfl
  unfold clInitCheck at h
  split_ifs at h <;> cases h

theorem elInitCheck_ne_ok {c : ConfigRegs} {e : ErrorCode} {k : BitVec 8}
    (h : elInitCheck c = some (e, k)) : e ≠ .ok := by
  rintro rfl
  unfold elInitCheck at h
  split_ifs at h <;> cases h

theorem sdInitCheck_ne_ok {c : ConfigRegs} {e : ErrorCode} {k : BitVec 8}
    (h : sdInitCheck c = some (e, k)) : e ≠ .ok := by
  rintro rfl
  unfold sdInitCheck at h
  split_ifs at h <;> cases h

theorem ddInitCheck_ne_ok {c : ConfigRegs} {e : ErrorCode} {k : BitVec 8}
    (h : ddInitCheck c = some (e, k)) : e ≠ .ok := by
  rintro rfl
  unfold ddInitCheck at h
  split_ifs at h <;> cases h

/-! ### The end of each command -/

section

variable {s t : State}

theorem execWrreg_ends {n : BitVec 8} {v : Reg} (h : execWrreg n v s = .next t) :
    Ends (.wrreg n v) s t := by
  unfold execWrreg at h
  split at h
  · exact ends_of_raise h (by decide) rfl
  · next r hr => exact ends_of_respond h rfl (.wrreg n v r hr)

theorem execRdreg_ends {n : BitVec 8} (h : execRdreg n s = .next t) : Ends (.rdreg n) s t := by
  unfold execRdreg at h
  split at h
  · exact ends_of_raise h (by decide) rfl
  · exact ends_of_respond h rfl (.rdreg n)

theorem execWrtab_ends {sel : BitVec 8} {idx : BitVec 16} {v : Reg}
    (h : execWrtab sel idx v s = .next t) : Ends (.wrtab sel idx v) s t := by
  unfold execWrtab at h
  split at h
  · exact ends_of_raise h (by decide) rfl
  · next k hk =>
    split at h
    · next hw =>
      split at h
      · next hi => exact ends_of_respond h rfl (.wrtab sel idx v k hk hw hi)
      · exact ends_of_raise h (by decide) rfl
    · exact ends_of_raise h (by decide) rfl

theorem execRdtab_ends {sel : BitVec 8} {idx : BitVec 16} (h : execRdtab sel idx s = .next t) :
    Ends (.rdtab sel idx) s t := by
  unfold execRdtab at h
  split at h
  · exact ends_of_raise h (by decide) rfl
  · split at h
    · exact ends_of_respond h rfl (.rdtab sel idx)
    · exact ends_of_raise h (by decide) rfl

theorem execClInit_ends (h : execClInit s = .next t) : Ends .clInit s t := by
  unfold execClInit at h
  split at h
  · next hc => exact ends_of_raise h (clInitCheck_ne_ok hc) rfl
  · next hc => exact ends_of_respond h rfl (.clInit (clInitCheck_eq_none.1 hc))

theorem execElInit_ends (h : execElInit s = .next t) : Ends .elInit s t := by
  unfold execElInit at h
  split at h
  · next hc => exact ends_of_raise h (elInitCheck_ne_ok hc) rfl
  · next hc => exact ends_of_respond h rfl (.elInit (elInitCheck_eq_none.1 hc))

theorem execSdInit_ends (h : execSdInit s = .next t) : Ends .sdInit s t := by
  unfold execSdInit at h
  split at h
  · next hc => exact ends_of_raise h (sdInitCheck_ne_ok hc) rfl
  · next hc => exact ends_of_respond h rfl (.sdInit (sdInitCheck_eq_none.1 hc))

theorem execDdInit_ends (h : execDdInit s = .next t) : Ends .ddInit s t := by
  unfold execDdInit at h
  split at h
  · next hc => exact ends_of_raise h (ddInitCheck_ne_ok hc) rfl
  · next hc => exact ends_of_respond h rfl (.ddInit (ddInitCheck_eq_none.1 hc))

theorem execClStep_ends {x : Sample} (h : execClStep x s = .next t) : Ends (.clStep x) s t := by
  unfold execClStep at h
  split at h
  · next hr =>
    split at h
    · next hs => exact ends_of_respond h rfl (.clStep x hr hs)
    · cases h
  · exact ends_of_raise h (by decide) rfl

theorem execElStep_ends {x : Sample} (h : execElStep x s = .next t) : Ends (.elStep x) s t := by
  unfold execElStep at h
  split at h
  · next hr =>
    split at h
    · next hs => exact ends_of_respond h rfl (.elStep x hr hs)
    · cases h
  · exact ends_of_raise h (by decide) rfl

theorem execSdDelay_ends {b : Buffer} {x : Sample} (h : execSdDelay b x s = .next t) :
    Ends (.sdDelay b x) s t := by
  unfold execSdDelay at h
  split at h
  · next hr =>
    split at h
    · next hs => exact ends_of_respond h rfl (.sdDelay b x hr hs)
    · cases h
  · exact ends_of_raise h (by decide) rfl

theorem sliceResponse_err (r : Option Nat) : (sliceResponse r).err = .ok := by cases r <;> rfl

theorem execDdSlice_ends {pi pq : Sample} (h : execDdSlice pi pq s = .next t) :
    Ends (.ddSlice pi pq) s t := by
  unfold execDdSlice at h
  split at h
  · next hr =>
    split at h
    · next hs => exact ends_of_respond h (sliceResponse_err _) (.ddSlice pi pq hr hs)
    · cases h
  · exact ends_of_raise h (by decide) rfl

theorem execDdDiff_ends {cur : BitVec 6} (h : execDdDiff cur s = .next t) :
    Ends (.ddDiff cur) s t := by
  unfold execDdDiff at h
  split at h
  · next hr =>
    split at h
    · next hc =>
      split at h
      · next hs => exact ends_of_respond h rfl (.ddDiff cur hr hs hc)
      · cases h
    · exact ends_of_raise h (by decide) rfl
  · exact ends_of_raise h (by decide) rfl

theorem execDmStep_ends {x : Sample} (h : execDmStep x s = .next t) : Ends (.dmStep x) s t := by
  obtain ⟨e, v, c, he, hx⟩ | hx | ⟨hcr, her, hsr, hdr, hcs, hes, hss, hds, hx⟩ := execDmStep_next h
  · exact ends_of_raise (hx.symm.trans h) he rfl
  · exact ends_of_respond (hx.symm.trans h) rfl (.dmGated x)
  · exact ends_of_respond (hx.symm.trans h) rfl (.dmStep x hcr her hsr hdr hcs hes hss hds)

theorem execDmBurst_ends {p : Bool} (h : execDmBurst p s = .next t) : Ends (.dmBurst p) s t := by
  unfold execDmBurst at h
  split at h
  · exact ends_of_respond h rfl (.burstKept false)
  · next hb => exact ends_of_respond h rfl (.burstStarts hb)
  · exact ends_of_respond h rfl (.burstKept true)
  · next hb => exact ends_of_respond h rfl (.burstEnds hb)

/-- A command that answers a next state ends in one of the two ways of `Ends`. -/
theorem exec_ends {i : Instr} (h : exec i s = .next t) : Ends i s t := by
  cases i with
  | nop => exact ends_of_respond h rfl .nop
  | wrreg n v => exact execWrreg_ends h
  | rdreg n => exact execRdreg_ends h
  | wrtab sel idx v => exact execWrtab_ends h
  | rdtab sel idx => exact execRdtab_ends h
  | clInit => exact execClInit_ends h
  | clReset => exact ends_of_respond h rfl .clReset
  | clStep x => exact execClStep_ends h
  | elInit => exact execElInit_ends h
  | elReset => exact ends_of_respond h rfl .elReset
  | elStep x => exact execElStep_ends h
  | sdInit => exact execSdInit_ends h
  | sdReset => exact ends_of_respond h rfl .sdReset
  | sdDelay b x => exact execSdDelay_ends h
  | ddInit => exact execDdInit_ends h
  | ddReset => exact ends_of_respond h rfl .ddReset
  | ddSlice pi pq => exact execDdSlice_ends h
  | ddDiff cur => exact execDdDiff_ends h
  | dmStep x => exact execDmStep_ends h
  | dmBurst p => exact execDmBurst_ends h
  | dmReset => exact ends_of_respond h rfl .dmReset

end

/-! ### What a command leaves, its response and LASTERR aside -/

/-- `u` is what the command `i` leaves of `s`, apart from LASTERR and the ports. -/
def Leaves (i : Instr) (s u : State) : Prop := Completes s i u ∨ u = initCleared i s

theorem exec_leaves {i : Instr} {s t : State} (h : exec i s = .next t) :
    ∃ u e c r, Leaves i s u ∧ t = withPorts u e c r := by
  cases exec_ends h with
  | completed _ hc => exact ⟨_, _, _, _, .inl hc, send_eq_withPorts _ _⟩
  | failed _ => exact ⟨_, _, _, _, .inr rfl, rfl⟩

/-- An invariant that reads neither LASTERR nor the ports holds after every step when it holds at
reset and every command keeps it: the other steps are the idle one (R225), the illegal word (R85) and
the reset pulse (R240). -/
theorem step_preserves {P : State → Prop} (hports : ∀ s e c r, P s → P (withPorts s e c r))
    (hreset : P State.reset) (hexec : ∀ i s u, P s → Leaves i s u → P u) {s t : State} (hs : P s)
    (h : step s = .next t) : P t := by
  unfold step at h
  split at h
  · cases h
    exact hs
  · next w rest _ =>
    have hs' : P { s with cmdPort := rest } := hports s s.lastErr rest s.rspPort hs
    unfold runWord at h
    split at h
    · obtain ⟨u, e, c, r, hu, rfl⟩ := exec_leaves h
      exact hports u e c r (hexec _ _ u hs' hu)
    · cases h
      exact hports s _ _ _ hs
  · cases h
    exact hports State.reset 0#32 _ _ hreset

/-! ### The state an ungated DM.STEP leaves, field by field -/

section

variable (s : State) (x : Int)

@[simp] theorem dmStepState_cfg : (dmStepState s x).cfg = s.cfg := by rw [dmStepState_frame]
@[simp] theorem dmStepState_host : (dmStepState s x).host = s.host := by rw [dmStepState_frame]
@[simp] theorem dmStepState_clRdy : (dmStepState s x).clRdy = s.clRdy := by rw [dmStepState_frame]
@[simp] theorem dmStepState_elRdy : (dmStepState s x).elRdy = s.elRdy := by rw [dmStepState_frame]
@[simp] theorem dmStepState_sdRdy : (dmStepState s x).sdRdy = s.sdRdy := by rw [dmStepState_frame]
@[simp] theorem dmStepState_ddRdy : (dmStepState s x).ddRdy = s.ddRdy := by rw [dmStepState_frame]
@[simp] theorem dmStepState_trigLat : (dmStepState s x).trigLat = s.trigLat := by
  rw [dmStepState_frame]
@[simp] theorem dmStepState_bstate : (dmStepState s x).bstate = s.bstate := by
  rw [dmStepState_frame]

/-- CL runs on the sample. -/
@[simp] theorem dmStepState_cl : (dmStepState s x).cl = (clOut s x).cl := by
  simp [dmStepState, dmDelayState, dmDelayIState, dmLoopState, clStepState, elStepState,
    sdDelayState]

/-- EL runs on the arm output DM_ELGSRC selects (R194); it reads nothing that CL writes. -/
@[simp] theorem dmStepState_el :
    (dmStepState s x).el = (elOut s (elgInput s.cfg (clOut s x))).el := by
  simp [dmStepState, dmDelayState, dmDelayIState, dmLoopState, clStepState, elStepState,
    sdDelayState, elOut]

/-- Both delay buffers take the pair. -/
@[simp] theorem dmStepState_sd :
    (dmStepState s x).sd =
      sdPush s.cfg.sdLen.toNat (sdPush s.cfg.sdLen.toNat s.sd .sdb0 (clOut s x).i) .sdb1
        (clOut s x).q := by
  simp [dmStepState, dmDelayState, dmDelayIState, dmLoopState, clStepState, elStepState,
    sdDelayState]

end

end Sys2Proof.Machine
end

section
/-! PROOFS. Who writes what (spec/10_state.md R24, R27, R31, R35): the READY flags, the configuration
registers and host tables, BSTATE and EL_TRIGLAT. -/

namespace Sys2Proof.Machine

/-! ### The READY flags (R27) -/

/-- The READY flag of a unit; units 0 and 5 have none. -/
def readyFlag (v : UnitId) (s : State) : Bool :=
  match v with
  | .noUnit => false
  | .cl => s.clRdy
  | .el => s.elRdy
  | .sd => s.sdRdy
  | .dd => s.ddRdy
  | .dm => false

/-- The INIT command of a unit. -/
def initOf (v : UnitId) : Option Instr :=
  match v with
  | .noUnit => none
  | .cl => some .clInit
  | .el => some .elInit
  | .sd => some .sdInit
  | .dd => some .ddInit
  | .dm => none

theorem readyFlag_clearReady_self (v : UnitId) (s : State) : readyFlag v (clearReady v s) = false := by
  cases v <;> rfl

theorem readyFlag_clearReady_ne {v w : UnitId} (s : State) (h : v ≠ w) :
    readyFlag v (clearReady w s) = readyFlag v s := by
  cases w <;> cases v <;> simp [readyFlag, clearReady] at h ⊢

section

variable {i : Instr} {s u : State}

/-- R27: a READY flag is written by its own unit's INIT, and cleared by WRREG; no other command that
completes writes one. -/
theorem Completes.readyFlag_eq (h : Completes s i u) (v : UnitId) :
    readyFlag v u = readyFlag v s ∨ initOf v = some i
      ∨ (readyFlag v u = false ∧ ∃ n x, i = .wrreg n x) := by
  cases h with
  | wrreg n x r hr =>
    by_cases hv : v = ownerOf r
    · exact .inr (.inr ⟨hv ▸ readyFlag_clearReady_self _ _, n, x, rfl⟩)
    · exact .inl (readyFlag_clearReady_ne _ hv)
  | clInit | elInit | sdInit | ddInit =>
    cases v <;> simp [readyFlag, initOf]
  | _ => exact .inl (by cases v <;> simp [readyFlag])

/-- A failing command writes no READY flag but, an INIT, its own. -/
theorem readyFlag_initCleared (i : Instr) (s : State) (v : UnitId) :
    readyFlag v (initCleared i s) = if initOf v = some i then false else readyFlag v s := by
  cases v <;> simp [readyFlag, initOf, initCleared, eq_comm]

theorem readyFlag_writers (h : Leaves i s u) (v : UnitId) :
    readyFlag v u = readyFlag v s ∨ initOf v = some i
      ∨ (readyFlag v u = false ∧ ∃ n x, i = .wrreg n x) := by
  obtain h | rfl := h
  · exact h.readyFlag_eq v
  · rw [readyFlag_initCleared]
    split
    · next hi => exact .inr (.inl hi)
    · exact .inl rfl

/-! ### Configuration registers and host tables (R24, R64) -/

theorem Completes.cfg_eq (h : Completes s i u) (hi : ∀ n v, i ≠ .wrreg n v) : u.cfg = s.cfg := by
  cases h with
  | wrreg n v => exact absurd rfl (hi n v)
  | _ => simp

theorem Completes.host_eq (h : Completes s i u) (hi : ∀ sel k v, i ≠ .wrtab sel k v) :
    u.host = s.host := by
  cases h with
  | wrtab sel k v => exact absurd rfl (hi sel k v)
  | _ => simp

/-! ### BSTATE and EL_TRIGLAT (R35, R31) -/

theorem Completes.bstate_eq (h : Completes s i u) (hb : ∀ p, i ≠ .dmBurst p)
    (hr : i ≠ .dmReset) : u.bstate = s.bstate := by
  cases h with
  | burstKept p => rfl
  | burstStarts => exact absurd rfl (hb true)
  | burstEnds => exact absurd rfl (hb false)
  | dmReset => exact absurd rfl hr
  | _ => simp

theorem Completes.trigLat_eq (h : Completes s i u) (hi : i ≠ .elInit) : u.trigLat = s.trigLat := by
  cases h with
  | elInit => exact absurd rfl hi
  | _ => simp

end

end Sys2Proof.Machine

namespace Sys2Proof.Proofs

open Sys2Proof.Machine

/-- Settles O14: each flag is `readyFlag` of its unit, and `readyFlag_writers` names its writers. -/
theorem readyFlagsOnlyByInitAndWrreg : Obligations.ReadyFlagsOnlyByInitAndWrreg := by
  intro i s t h
  obtain ⟨u, e, c, r, hu, rfl⟩ := exec_leaves h
  have writers (v : UnitId) (j : Instr) (hj : initOf v = some j)
      (hne : readyFlag v u ≠ readyFlag v s) :
      i = j ∨ (readyFlag v u = false ∧ ∃ n x, i = .wrreg n x) := by
    obtain heq | hi | hw := readyFlag_writers hu v
    · exact absurd heq hne
    · exact .inl (Option.some.inj (hi.symm.trans hj))
    · exact .inr hw
  exact ⟨writers .cl _ rfl, writers .el _ rfl, writers .sd _ rfl, writers .dd _ rfl⟩

/-- Settles O15: only the completing WRREG and WRTAB write these fields, and no failing command. -/
theorem configAndHostTablesOnlyByWrites : Obligations.ConfigAndHostTablesOnlyByWrites := by
  intro i s t h
  obtain ⟨u, e, c, r, hc | rfl, rfl⟩ := exec_leaves h
  · exact ⟨hc.cfg_eq, hc.host_eq⟩
  · exact ⟨fun _ => rfl, fun _ => rfl⟩

/-- Settles O16: read off the completing commands; a failing one writes neither field. -/
theorem burstStateAndLatencyWriters : Obligations.BurstStateAndLatencyWriters := by
  intro i s t h
  obtain ⟨u, e, c, r, hc | rfl, rfl⟩ := exec_leaves h
  · exact ⟨hc.bstate_eq, hc.trigLat_eq⟩
  · exact ⟨fun _ _ => rfl, fun _ => rfl⟩

/-- Settles O22: a READY unit's step command asks for soundness before it runs. -/
theorem unsoundUnitStopsByName : Obligations.UnsoundUnitStopsByName := by
  intro s x pi pq b cur
  refine ⟨fun hr hs => ?_, fun hr hs => ?_, fun hr hs => ?_, fun hr hs => ?_, fun hr hs hc => ?_⟩
  · exact (if_pos hr).trans (if_neg hs)
  · exact (if_pos hr).trans (if_neg hs)
  · exact (if_pos hr).trans (if_neg hs)
  · exact (if_pos hr).trans (if_neg hs)
  · exact (if_pos hr).trans ((if_pos hc).trans (if_neg hs))

end Sys2Proof.Proofs
end

section
/-! PROOFS. The reset state (spec/10_state.md R41) and the step commands of a unit that is not READY
(R27). -/

namespace Sys2Proof.Proofs

open Sys2Proof.Machine Sys2Proof.Statements

/-! ### The reset state -/

/-- Every table is empty at reset, and an unlisted entry reads 0 in every format of R62. -/
theorem entryRead_reset (t : TableId) (k : Nat) : entryRead State.reset t k = 0#32 := by
  cases t <;> simp [entryRead, State.reset, HostTables.zero, ClState.zero, ElState.zero, SdState.zero]

/-- Settles O8: the registers are a closed list; the tables are `entryRead_reset`. -/
theorem resetStateIsAllZero : Obligations.ResetStateIsAllZero := by
  refine ⟨by decide, by decide, ⟨rfl, rfl, rfl, rfl⟩, rfl, fun p _ k => ?_⟩
  rw [entryPattern_eq_entryRead, entryRead_reset]

/-! ### The words and the first check of the step commands -/

theorem encode_sampleCommand {i : Instr} {x : Sample} (ht : encodeT i = 0#8)
    (ha : encodeA i = 0#16) (hd : encodeD i = x.setWidth 32) :
    encode i = cmdWord (opcode i).toNat 0 0 x.toNat := by
  have hx : (x.setWidth 32).toNat = x.toNat := by simp; omega
  rw [encode_eq_ofNat, ht, ha, hd, hx]
  rfl

/-- Settles O38: the READY flag is the first check of each of the five commands, so `raise` runs on
the state as it was. -/
theorem stepCommandsNeedReady : Obligations.StepCommandsNeedReady := by
  intro s x pi pq b cur
  refine ⟨⟨encode_sampleCommand rfl rfl rfl, encode_sampleCommand rfl rfl rfl⟩,
    fun hr => ?_, fun hr => ?_, fun hr => ?_, fun hr => ?_, fun hr => ?_⟩
  · exact (if_neg (by simp [hr])).trans (raise_eq_failed _ _ _ _ s)
  · exact (if_neg (by simp [hr])).trans (raise_eq_failed _ _ _ _ s)
  · exact (if_neg (by simp [hr])).trans (raise_eq_failed _ _ _ _ s)
  · exact (if_neg (by simp [hr])).trans (raise_eq_failed _ _ _ _ s)
  · exact (if_neg (by simp [hr])).trans (raise_eq_failed _ _ _ _ s)

end Sys2Proof.Proofs
end

section
/-! PROOFS. What a command can do to each unit (spec/10_state.md R26, R27, R39): leave its state as it
is, clear it, or run one step of it. R39 is then proved unit by unit over these three cases. -/

namespace Sys2Proof.Machine

/-! ### A unit's own configuration registers -/

/-- The registers unit `v` owns hold the same patterns in both configurations. -/
def SameRegs (v : UnitId) (c c' : ConfigRegs) : Prop :=
  ∀ r, ownerOf r = v → cfgRead c' r = cfgRead c r

theorem cfgRead_cfgWrite_ne {r r' : ConfigReg} (c : ConfigRegs) (v : Reg) (h : r' ≠ r) :
    cfgRead (cfgWrite c r v) r' = cfgRead c r' := by
  cases r <;> cases r' <;> simp [cfgRead, cfgWrite] at h ⊢

theorem sameRegs_cfgWrite {v : UnitId} {r : ConfigReg} (c : ConfigRegs) (x : Reg)
    (h : v ≠ ownerOf r) : SameRegs v c (cfgWrite c r x) := by
  rintro r' rfl
  exact cfgRead_cfgWrite_ne c x fun he => h (congrArg ownerOf he)

theorem sameRegs_of_eq {v : UnitId} {c c' : ConfigRegs} (h : c' = c) : SameRegs v c c' := by
  subst h
  exact fun _ _ => rfl

section

variable {c c' : ConfigRegs}

theorem clLegal_of_sameRegs (h : SameRegs .cl c c') (hl : clLegal c) : clLegal c' := by
  have hVco : c'.clVcoSize = c.clVcoSize := h .clVcoSize rfl
  have hArm : c'.clArmLen = c.clArmLen := h .clArmLen rfl
  have hAlpha : c'.clAlpha = c.clAlpha := h .clAlpha rfl
  have hTrack : c'.clNtrack = c.clNtrack := h .clNtrack rfl
  have hMode : c'.clFbMode = c.clFbMode := h .clFbMode rfl
  unfold clLegal
  rwa [hVco, hArm, hAlpha, hTrack, hMode]

theorem elLegal_of_sameRegs (h : SameRegs .el c c') (hl : elLegal c) : elLegal c' := by
  have hSym : c'.elSymLen = c.elSymLen := h .elSymLen rfl
  have hShape : c'.elMfShape = c.elMfShape := h .elMfShape rfl
  have hEg : c'.elEgLen = c.elEgLen := h .elEgLen rfl
  have hTl : c'.elTlLen = c.elTlLen := h .elTlLen rfl
  have hTmode : c'.elTmode = c.elTmode := h .elTmode rfl
  unfold elLegal
  rwa [hSym, hShape, hEg, hTl, hTmode]

theorem trigLatency_of_sameRegs (h : SameRegs .el c c') : trigLatency c' = trigLatency c := by
  have hSym : c'.elSymLen = c.elSymLen := h .elSymLen rfl
  have hEg : c'.elEgLen = c.elEgLen := h .elEgLen rfl
  have hTl : c'.elTlLen = c.elTlLen := h .elTlLen rfl
  have hTmode : c'.elTmode = c.elTmode := h .elTmode rfl
  unfold trigLatency
  rw [hSym, hEg, hTl, hTmode]

end

/-- A unit that is READY after the command was READY before it, and its registers are the same: a
WRREG of one of them would have cleared the flag (R26). -/
def KeptReady (v : UnitId) (s u : State) : Prop :=
  readyFlag v u = true → readyFlag v s = true ∧ SameRegs v s.cfg u.cfg

section

variable {i : Instr} {s u : State}

/-- Every completing command but the unit's own INIT. -/
theorem Completes.keptReady {v : UnitId} (h : Completes s i u) (hi : initOf v ≠ some i) :
    KeptReady v s u := by
  intro hu
  have hs : readyFlag v s = true := by
    obtain heq | hi' | ⟨hno, -⟩ := h.readyFlag_eq v
    · exact heq ▸ hu
    · exact absurd hi' hi
    · exact absurd (hno.symm.trans hu) (by decide)
  refine ⟨hs, ?_⟩
  cases h with
  | wrreg n x r hr =>
    have hv : v ≠ ownerOf r := by
      rintro rfl
      exact absurd ((readyFlag_clearReady_self _ _).symm.trans hu) (by decide)
    rw [clearReady_cfg]
    exact sameRegs_cfgWrite s.cfg x hv
  | _ => exact sameRegs_of_eq (by simp)

theorem initCleared_keptReady (i : Instr) (s : State) (v : UnitId) :
    KeptReady v s (initCleared i s) := by
  intro hu
  refine ⟨?_, sameRegs_of_eq rfl⟩
  rw [readyFlag_initCleared] at hu
  split at hu
  · cases hu
  · exact hu

/-! ### What a command can do to CL -/

/-- The three things a command can do to CL. -/
inductive ClChange (s u : State) : Prop
  | kept (hcl : u.cl = s.cl) (hk : KeptReady .cl s u)
  | cleared (hcl : u.cl = ClState.zero) (hcfg : u.cfg = s.cfg)
      (hr : u.clRdy = true → s.clRdy = true ∨ clLegal s.cfg)
  | stepped (x : Int) (hcl : u.cl = (clOut s x).cl) (hcfg : u.cfg = s.cfg) (hs : clSound s)

theorem Leaves.clChange (h : Leaves i s u) : ClChange s u := by
  obtain h | rfl := h
  · have hk : initOf .cl ≠ some i → KeptReady .cl s u := h.keptReady
    cases h with
    | clInit hl => exact .cleared rfl rfl fun _ => .inr hl
    | clReset | burstEnds | dmReset =>
      exact .cleared (by simp) (by simp) fun hr => .inl (by simpa using hr)
    | clStep x hr hs => exact .stepped _ rfl rfl hs
    | dmStep x _ _ _ _ hcs => exact .stepped _ (dmStepState_cl s _) (dmStepState_cfg s _) hcs
    | _ => exact .kept (by simp) (hk (by simp [initOf]))
  · exact .kept rfl (initCleared_keptReady i s .cl)

/-- R39 (a), (b): both arm indices advance together, modulo the arm length. -/
theorem ClChange.sound (h : ClChange s u) (hs : s.clRdy = true → clSound s)
    (hr : u.clRdy = true) : clSound u := by
  cases h with
  | kept hcl hk =>
    obtain ⟨hr', hregs⟩ := hk hr
    obtain ⟨hlegal, heq, hlt⟩ := hs hr'
    have hArm : u.cfg.clArmLen = s.cfg.clArmLen := hregs .clArmLen rfl
    refine ⟨clLegal_of_sameRegs hregs hlegal, ?_, ?_⟩
    · rw [hcl, heq]
    · rwa [hcl, hArm]
  | cleared hcl hcfg hready =>
    have hlegal : clLegal s.cfg := (hready hr).elim (fun h => (hs h).1) id
    obtain ⟨-, -, hodd, -⟩ := id hlegal
    unfold clSound
    rw [hcl, hcfg]
    refine ⟨hlegal, rfl, ?_⟩
    show 0 < _
    omega
  | stepped x hcl hcfg hsound =>
    obtain ⟨hlegal, heq, -⟩ := hsound
    obtain ⟨-, -, hodd, hcap, -⟩ := id hlegal
    have hpos : 0 < s.cfg.clArmLen.toNat := by omega
    unfold clSound
    rw [hcl, hcfg]
    refine ⟨hlegal, ?_, ?_⟩
    · simp only [clOut, clDatapath, heq]
    · simp only [clOut, clDatapath]
      rw [wrapIndex_toNat hpos (le_trans hcap (by decide))]
      exact Nat.mod_lt _ hpos

/-! ### What a command can do to EL -/

/-- The three things a command can do to EL; a step runs on a 16-bit sample (R83, R115). -/
inductive ElChange (s u : State) : Prop
  | kept (hel : u.el = s.el) (hlat : u.trigLat = s.trigLat) (hk : KeptReady .el s u)
  | cleared (hel : u.el = ElState.zero) (hcfg : u.cfg = s.cfg)
      (hr : u.elRdy = true → (s.elRdy = true ∧ u.trigLat = s.trigLat)
        ∨ (elLegal s.cfg ∧ u.trigLat = BitVec.ofNat 10 (trigLatency s.cfg)))
  | stepped (x : Int) (hx : -32768 ≤ x ∧ x ≤ 32767) (hel : u.el = (elOut s x).el)
      (hcfg : u.cfg = s.cfg) (hlat : u.trigLat = s.trigLat) (hr : s.elRdy = true) (hs : elSound s)

theorem sampleOf_range (x : Sample) : -32768 ≤ sampleOf x ∧ sampleOf x ≤ 32767 := by
  have hlo := x.le_toInt
  have hhi := x.toInt_lt
  unfold sampleOf
  norm_num at hlo hhi
  omega

theorem clOut_i_range (s : State) (x : Int) : -32768 ≤ (clOut s x).i ∧ (clOut s x).i ≤ 32767 :=
  sat_range 16 _

theorem clOut_q_range (s : State) (x : Int) : -32768 ≤ (clOut s x).q ∧ (clOut s x).q ≤ 32767 :=
  sat_range 16 _

/-- Either arm output is a 16-bit sample. -/
theorem elgInput_range (s : State) (x : Int) :
    -32768 ≤ elgInput s.cfg (clOut s x) ∧ elgInput s.cfg (clOut s x) ≤ 32767 := by
  unfold elgInput
  split
  · exact clOut_q_range s x
  · exact clOut_i_range s x

theorem Leaves.elChange (h : Leaves i s u) : ElChange s u := by
  obtain h | rfl := h
  · have hk : initOf .el ≠ some i → KeptReady .el s u := h.keptReady
    cases h with
    | elInit hl => exact .cleared rfl rfl fun _ => .inr ⟨hl, rfl⟩
    | elReset | burstEnds | dmReset =>
      exact .cleared (by simp) (by simp) fun hr => .inl ⟨by simpa using hr, by simp⟩
    | elStep x hr hs => exact .stepped _ (sampleOf_range x) rfl rfl rfl hr hs
    | dmStep x _ her _ _ _ hes =>
      exact .stepped _ (elgInput_range s _) (dmStepState_el s _) (dmStepState_cfg s _)
        (dmStepState_trigLat s _) her hes
    | _ => exact .kept (by simp) (by simp) (hk (by simp [initOf]))
  · exact .kept rfl rfl (initCleared_keptReady i s .el)

/-- R131: the latency of a legal configuration fits EL_TRIGLAT. -/
theorem trigLatency_toNat {c : ConfigRegs} (h : elLegal c) :
    (BitVec.ofNat 10 (trigLatency c)).toNat = trigLatency c := by
  simp only [elLegal, Config.mfCap, Config.egCap, Config.tlCap] at h
  rw [BitVec.toNat_ofNat, Nat.mod_eq_of_lt]
  unfold trigLatency
  split <;> omega

/-- R39 (a), (c): each index advances modulo its own length, and the reverberator keeps its counter
below the symbol length. -/
theorem ElChange.sound (h : ElChange s u) (hs : s.elRdy = true → elSound s)
    (hr : u.elRdy = true) : elSound u := by
  cases h with
  | kept hel hlat hk =>
    obtain ⟨hr', hregs⟩ := hk hr
    obtain ⟨hlegal, hmf, heg, htl, hcnt, hl⟩ := hs hr'
    have hSym : u.cfg.elSymLen = s.cfg.elSymLen := hregs .elSymLen rfl
    have hEg : u.cfg.elEgLen = s.cfg.elEgLen := hregs .elEgLen rfl
    have hTl : u.cfg.elTlLen = s.cfg.elTlLen := hregs .elTlLen rfl
    refine ⟨elLegal_of_sameRegs hregs hlegal, ?_⟩
    rw [hel, hlat, hSym, hEg, hTl, trigLatency_of_sameRegs hregs]
    exact ⟨hmf, heg, htl, hcnt, hl⟩
  | cleared hel hcfg hready =>
    have hlegal : elLegal s.cfg := (hready hr).elim (fun h => (hs h.1).1) And.left
    have hlat : u.trigLat.toNat = trigLatency s.cfg := by
      obtain ⟨hr', hl⟩ | ⟨-, hl⟩ := hready hr
      · obtain ⟨-, -, -, -, -, hl'⟩ := hs hr'
        rw [hl, hl']
      · rw [hl, trigLatency_toNat hlegal]
    obtain ⟨hS, -, hD, -, hodd, -⟩ := id hlegal
    have hL : 1 ≤ s.cfg.elTlLen.toNat := by omega
    unfold elSound
    rw [hel, hcfg]
    exact ⟨hlegal, hS, hD, hL, hS, hlat⟩
  | stepped x hx hel hcfg hlat hready hsound =>
    obtain ⟨hlegal, -, -, -, hcnt, hl⟩ := hsound
    obtain ⟨hS, hScap, hD, hDcap, hodd, hLcap, -⟩ := id hlegal
    have hL : 0 < s.cfg.elTlLen.toNat := by omega
    unfold elSound
    rw [hel, hcfg, hlat]
    refine ⟨hlegal, ?_, ?_, ?_, ?_, hl⟩ <;> simp only [elOut, elDatapath]
    · rw [wrapIndex_toNat hS (le_trans hScap (by decide))]
      exact Nat.mod_lt _ hS
    · rw [wrapIndex_toNat hD (le_trans hDcap (by decide))]
      exact Nat.mod_lt _ hD
    · rw [wrapIndex_toNat hL (le_trans hLcap (by decide))]
      exact Nat.mod_lt _ hL
    · exact lt_of_le_of_lt (by rw [BitVec.toNat_ofNat]; exact Nat.mod_le _ _)
        (reverberate_cnt_lt _ _ _ hcnt)

/-! ### What a command can do to SD -/

/-- The three things a command can do to SD; DM.STEP pushes into both buffers. -/
inductive SdChange (s u : State) : Prop
  | kept (hsd : u.sd = s.sd) (hk : KeptReady .sd s u)
  | cleared (hsd : u.sd = SdState.zero) (hcfg : u.cfg = s.cfg)
      (hr : u.sdRdy = true → s.sdRdy = true ∨ sdLegal s.cfg)
  | pushed (b : Buffer) (x : Int) (hsd : u.sd = sdPush s.cfg.sdLen.toNat s.sd b x)
      (hcfg : u.cfg = s.cfg) (hs : sdSound s)
  | pushedBoth (x y : Int)
      (hsd : u.sd = sdPush s.cfg.sdLen.toNat (sdPush s.cfg.sdLen.toNat s.sd .sdb0 x) .sdb1 y)
      (hcfg : u.cfg = s.cfg) (hs : sdSound s)

theorem Leaves.sdChange (h : Leaves i s u) : SdChange s u := by
  obtain h | rfl := h
  · have hk : initOf .sd ≠ some i → KeptReady .sd s u := h.keptReady
    cases h with
    | sdInit hl => exact .cleared rfl rfl fun _ => .inr hl
    | sdReset | burstEnds | dmReset =>
      exact .cleared (by simp) (by simp) fun hr => .inl (by simpa using hr)
    | sdDelay b x hr hs => exact .pushed b _ rfl rfl hs
    | dmStep x _ _ _ _ _ _ hss =>
      exact .pushedBoth _ _ (dmStepState_sd s _) (dmStepState_cfg s _) hss
    | _ => exact .kept (by simp) (hk (by simp [initOf]))
  · exact .kept rfl (initCleared_keptReady i s .sd)

/-- Both indices of SD are inside the length in use. -/
def SdInside (len : Nat) (sd : SdState) : Prop := sd.ix0.toNat < len ∧ sd.ix1.toNat < len

theorem sdPush_inside {len : Nat} {sd : SdState} (b : Buffer) (x : Int) (hcap : len ≤ Config.sdCap)
    (h : SdInside len sd) : SdInside len (sdPush len sd b x) := by
  obtain ⟨h0, h1⟩ := h
  have hpos : 0 < len := by omega
  have hwrap (k : Nat) : (BitVec.ofNat 10 (k % len)).toNat < len := by
    rw [wrapIndex_toNat hpos hcap]
    exact Nat.mod_lt _ hpos
  cases b with
  | sdb0 => exact ⟨hwrap _, h1⟩
  | sdb1 => exact ⟨h0, hwrap _⟩

/-- R39 (a), (d). -/
theorem SdChange.sound (h : SdChange s u) (hs : s.sdRdy = true → sdSound s)
    (hr : u.sdRdy = true) : sdSound u := by
  cases h with
  | kept hsd hk =>
    obtain ⟨hr', hregs⟩ := hk hr
    have hLen : u.cfg.sdLen = s.cfg.sdLen := hregs .sdLen rfl
    unfold sdSound sdLegal
    rw [hsd, hLen]
    exact hs hr'
  | cleared hsd hcfg hready =>
    have hlegal : sdLegal s.cfg := (hready hr).elim (fun h => (hs h).1) id
    unfold sdSound
    rw [hsd, hcfg]
    exact ⟨hlegal, hlegal.1, hlegal.1⟩
  | pushed b x hsd hcfg hsound =>
    obtain ⟨hlegal, hin⟩ := hsound
    unfold sdSound
    rw [hsd, hcfg]
    exact ⟨hlegal, sdPush_inside b x hlegal.2 hin⟩
  | pushedBoth x y hsd hcfg hsound =>
    obtain ⟨hlegal, hin⟩ := hsound
    unfold sdSound
    rw [hsd, hcfg]
    exact ⟨hlegal, sdPush_inside _ y hlegal.2 (sdPush_inside _ x hlegal.2 hin)⟩

/-! ### What a command can do to DD -/

/-- The three things a command can do to DD; a step leaves DD_PREV a decision below DD_M. -/
inductive DdChange (s u : State) : Prop
  | kept (hdd : u.dd = s.dd) (hk : KeptReady .dd s u)
  | cleared (hdd : u.dd = DdState.zero) (hcfg : u.cfg = s.cfg)
      (hr : u.ddRdy = true → s.ddRdy = true ∨ ddLegal s.cfg)
  | stepped (hprev : u.dd.prev.toNat < s.cfg.ddM.toNat) (hcfg : u.cfg = s.cfg) (hs : ddSound s)

/-- The slicer decides for one of the first M points (R172). -/
theorem nearest_lt {m : Nat} (const : Table 32) (p q : Int) (hm : 1 ≤ m) :
    nearest m const p q < m := by
  obtain ⟨-, hle, -⟩ := firstMin_spec (distSq const p q) (m - 1)
  unfold nearest
  omega

theorem sliceState_prev (s : State) (p q : Int) : (sliceState s p q).dd.prev = s.dd.prev := by
  obtain h | h := sliceState_cases s p q
  · rw [h]
  · rw [h]

theorem diffState_prev_lt {m : Nat} (s : State) {cur : Nat} (h : cur < m) :
    (diffState s cur).dd.prev.toNat < m := by
  show (BitVec.ofNat 6 cur).toNat < m
  rw [BitVec.toNat_ofNat]
  exact lt_of_le_of_lt (Nat.mod_le _ _) h

/-- DD_PREV after the decision stage is what it was, or the index the slicer gave. -/
theorem decisionState_prev_lt (trig : Bool) (p q : Int) (hs : ddSound s) :
    (decisionState s trig p q).dd.prev.toNat < s.cfg.ddM.toNat := by
  obtain ⟨⟨hm, -⟩, hprev⟩ := hs
  unfold decisionState
  split
  · split
    · rwa [sliceState_prev]
    · next k hk =>
      unfold sliceOut at hk
      split at hk
      · cases hk
        exact diffState_prev_lt _ (nearest_lt _ _ _ hm)
      · cases hk
  · exact hprev

theorem dmStepState_prev_lt (x : Int) (hs : ddSound s) :
    (dmStepState s x).dd.prev.toNat < s.cfg.ddM.toNat := by
  have hcfg : (dmDelayState s x).cfg = s.cfg := by
    simp [dmDelayState, dmDelayIState, dmLoopState]
  have hdd : (dmDelayState s x).dd = s.dd := by
    simp [dmDelayState, dmDelayIState, dmLoopState]
  have h := decisionState_prev_lt (dmTrig s x) (dmDelayedI s x) (dmDelayedQ s x)
    (ddSound_congr hdd hcfg hs)
  rwa [hcfg] at h

theorem Leaves.ddChange (h : Leaves i s u) : DdChange s u := by
  obtain h | rfl := h
  · have hk : initOf .dd ≠ some i → KeptReady .dd s u := h.keptReady
    cases h with
    | ddInit hl => exact .cleared rfl rfl fun _ => .inr hl
    | ddReset | burstEnds | dmReset =>
      exact .cleared (by simp) (by simp) fun hr => .inl (by simpa using hr)
    | ddSlice pi pq hr hs => exact .stepped (by rw [sliceState_prev]; exact hs.2) (by simp) hs
    | ddDiff cur hr hs hc => exact .stepped (diffState_prev_lt s hc) rfl hs
    | dmStep x _ _ _ _ _ _ _ hds =>
      exact .stepped (dmStepState_prev_lt _ hds) (dmStepState_cfg s _) hds
    | _ => exact .kept (by simp) (hk (by simp [initOf]))
  · exact .kept rfl (initCleared_keptReady i s .dd)

/-- R39 (a), (e). -/
theorem DdChange.sound (h : DdChange s u) (hs : s.ddRdy = true → ddSound s)
    (hr : u.ddRdy = true) : ddSound u := by
  cases h with
  | kept hdd hk =>
    obtain ⟨hr', hregs⟩ := hk hr
    have hM : u.cfg.ddM = s.cfg.ddM := hregs .ddM rfl
    unfold ddSound ddLegal
    rw [hdd, hM]
    exact hs hr'
  | cleared hdd hcfg hready =>
    have hlegal : ddLegal s.cfg := (hready hr).elim (fun h => (hs h).1) id
    unfold ddSound
    rw [hdd, hcfg]
    exact ⟨hlegal, hlegal.1⟩
  | stepped hprev hcfg hsound =>
    unfold ddSound
    rw [hcfg]
    exact ⟨hsound.1, hprev⟩

/-! ### All four units -/

theorem readySound_of_leaves (hs : readySound s) (h : Leaves i s u) : readySound u := by
  obtain ⟨hcl, hel, hsd, hdd⟩ := hs
  exact ⟨h.clChange.sound hcl, h.elChange.sound hel, h.sdChange.sound hsd, h.ddChange.sound hdd⟩

theorem readySound_reset : readySound State.reset := by decide

theorem readySound_step {t : State} (hs : readySound s) (h : step s = .next t) : readySound t :=
  step_preserves (fun _ _ _ _ => id) readySound_reset (fun _ _ _ => readySound_of_leaves) hs h

end

end Sys2Proof.Machine

namespace Sys2Proof.Proofs

open Sys2Proof.Machine

/-- Settles O18: `readySound` is inductive on its own, unit by unit, because an unsound unit does not
step. -/
theorem readyUnitsStaySound : Obligations.ReadyUnitsStaySound := by
  intro s t hs h
  exact readySound_step hs h

end Sys2Proof.Proofs
end

section
/-! PROOFS. The whole invariant `saneState` (spec/10_state.md R39, 41_costas.md R122, 42_elg.md R135,
R142 (a), and the tables' form of log 6): at reset, and over the changes a command can make to each
unit. -/

namespace Sys2Proof.Machine

/-! ### The canonical form of the tables, by the part of the state that holds them -/

/-- The six host tables of R61. -/
def HostWf (h : HostTables) : Prop :=
  tabWf Config.vcoCap h.vcot = true ∧ tabWf Config.armCap h.armc = true
    ∧ tabWf Config.mfCap h.mfc = true ∧ tabWf Config.tlCap h.tlc = true
    ∧ tabWf Config.constCap h.const = true ∧ tabWf Config.constCap h.delta = true

/-- The arm delay lines. -/
def ClWf (cl : ClState) : Prop :=
  tabWf Config.armCap cl.armi = true ∧ tabWf Config.armCap cl.armq = true

/-- The matched-filter, early-gate and loop-filter delay lines. -/
def ElWf (el : ElState) : Prop :=
  tabWf Config.mfCap el.mfb = true ∧ tabWf Config.egCap el.egb = true
    ∧ tabWf Config.tlCap el.tlb = true

/-- The two sync delay buffers. -/
def SdWf (sd : SdState) : Prop :=
  tabWf Config.sdCap sd.sdb0 = true ∧ tabWf Config.sdCap sd.sdb1 = true

theorem memory_wf_iff {s : State} :
    Memory.wf s = true ↔ HostWf s.host ∧ ClWf s.cl ∧ ElWf s.el ∧ SdWf s.sd := by
  simp only [Memory.wf, HostWf, ClWf, ElWf, SdWf, Bool.and_eq_true, and_assoc]

/-- R103 stores inside the capacity only, so a host write keeps the form. -/
theorem entryWrite_hostWf {s : State} {t : TableId} {k : Nat} (d : Reg) (hi : k < capacity t)
    (h : HostWf s.host) : HostWf (entryWrite s t k d).host := by
  obtain ⟨hVcot, hArmc, hMfc, hTlc, hConst, hDelta⟩ := id h
  cases t with
  | vcot => exact ⟨tabSet_wf _ hVcot hi, hArmc, hMfc, hTlc, hConst, hDelta⟩
  | armc => exact ⟨hVcot, tabSet_wf _ hArmc hi, hMfc, hTlc, hConst, hDelta⟩
  | mfc => exact ⟨hVcot, hArmc, tabSet_wf _ hMfc hi, hTlc, hConst, hDelta⟩
  | tlc => exact ⟨hVcot, hArmc, hMfc, tabSet_wf _ hTlc hi, hConst, hDelta⟩
  | const => exact ⟨hVcot, hArmc, hMfc, hTlc, tabSet_wf _ hConst hi, hDelta⟩
  | delta => exact ⟨hVcot, hArmc, hMfc, hTlc, hConst, tabSet_wf _ hDelta hi⟩
  | armi | armq | mfb | egb | tlb | sdb0 | sdb1 => exact h

section

variable {i : Instr} {s u : State}

theorem Leaves.hostWf (h : Leaves i s u) (hs : HostWf s.host) : HostWf u.host := by
  obtain h | rfl := h
  · by_cases hi : ∃ sel k v, i = .wrtab sel k v
    · obtain ⟨sel, k, v, rfl⟩ := hi
      cases h with
      | wrtab _ _ _ t _ _ hcap => exact entryWrite_hostWf v hcap hs
    · rw [h.host_eq fun sel k v he => hi ⟨sel, k, v, he⟩]
      exact hs
  · exact hs

/-! ### CL: the arm delay lines and CL_FB -/

/-- R117: the detector's output in each of its modes, from two 16-bit arm outputs. -/
theorem phaseError_range {mode : Nat} {p q : Int} (hp : -32768 ≤ p ∧ p ≤ 32767)
    (hq : -32768 ≤ q ∧ q ≤ 32767) :
    -65536 ≤ phaseError mode p q ∧ phaseError mode p q ≤ 65536 := by
  obtain hsp | hsp | hsp := sgn_cases p <;> obtain hsq | hsq | hsq := sgn_cases q <;>
    · unfold phaseError
      rw [hsp, hsq]
      split_ifs <;> omega

theorem clOut_fb (s : State) (x : Int) :
    (clOut s x).cl.fb =
      BitVec.ofInt 32 (phaseError s.cfg.clFbMode.toNat (clOut s x).i (clOut s x).q) := rfl

theorem ClChange.keeps_fbInRange (h : ClChange s u) (hs : fbInRange s) : fbInRange u := by
  unfold fbInRange at hs ⊢
  cases h with
  | kept hcl _ => rwa [hcl]
  | cleared hcl _ _ =>
    rw [hcl]
    decide
  | stepped x hcl _ _ =>
    obtain ⟨hlo, hhi⟩ := phaseError_range (mode := s.cfg.clFbMode.toNat) (clOut_i_range s x)
      (clOut_q_range s x)
    rw [hcl, clOut_fb, ofInt32_toInt (by linarith) (by linarith)]
    exact ⟨hlo, hhi⟩

theorem ClChange.wf (h : ClChange s u) (hs : ClWf s.cl) : ClWf u.cl := by
  cases h with
  | kept hcl _ => rwa [hcl]
  | cleared hcl _ _ =>
    rw [hcl]
    exact ⟨rfl, rfl⟩
  | stepped x hcl _ hsound =>
    obtain ⟨⟨-, -, -, hcap, -⟩, heq, hlt⟩ := hsound
    obtain ⟨hI, hQ⟩ := hs
    have hix : s.cl.aixI.toNat < Config.armCap := lt_of_lt_of_le hlt hcap
    rw [hcl]
    exact ⟨tabSet_wf _ hI hix, tabSet_wf _ hQ (heq ▸ hix)⟩

/-! ### SD: the delay buffers -/

theorem sdPush_wf {len : Nat} {sd : SdState} (b : Buffer) (x : Int) (hcap : len ≤ Config.sdCap)
    (hin : SdInside len sd) (h : SdWf sd) : SdWf (sdPush len sd b x) := by
  obtain ⟨h0, h1⟩ := h
  cases b with
  | sdb0 => exact ⟨tabSet_wf _ h0 (lt_of_lt_of_le hin.1 hcap), h1⟩
  | sdb1 => exact ⟨h0, tabSet_wf _ h1 (lt_of_lt_of_le hin.2 hcap)⟩

theorem SdChange.wf (h : SdChange s u) (hs : SdWf s.sd) : SdWf u.sd := by
  cases h with
  | kept hsd _ => rwa [hsd]
  | cleared hsd _ _ =>
    rw [hsd]
    exact ⟨rfl, rfl⟩
  | pushed b x hsd _ hsound =>
    obtain ⟨⟨-, hcap⟩, hin⟩ := hsound
    rw [hsd]
    exact sdPush_wf b x hcap hin hs
  | pushedBoth x y hsd _ hsound =>
    obtain ⟨⟨-, hcap⟩, hin⟩ := hsound
    rw [hsd]
    exact sdPush_wf _ y hcap (sdPush_inside _ x hcap hin) (sdPush_wf _ x hcap hin hs)

/-! ### EL: the delay lines and TRIGUPD -/

theorem ElChange.wf (h : ElChange s u) (hs : ElWf s.el) : ElWf u.el := by
  cases h with
  | kept hel _ _ => rwa [hel]
  | cleared hel _ _ =>
    rw [hel]
    exact ⟨rfl, rfl, rfl⟩
  | stepped x _ hel _ _ _ hsound =>
    obtain ⟨⟨-, hS, -, hD, -, hL, -⟩, hmf, heg, htl, -⟩ := hsound
    obtain ⟨hMfb, hEgb, hTlb⟩ := hs
    rw [hel]
    exact ⟨tabSet_wf _ hMfb (lt_of_lt_of_le hmf hS), tabSet_wf _ hEgb (lt_of_lt_of_le heg hD),
      tabSet_wf _ hTlb (lt_of_lt_of_le htl hL)⟩

/-- R39 (f): a reverberator that is not running has no nudge pending, and only starts without one. -/
theorem reverberate_upd_imp_det {len cnt : Nat} {q det upd : Bool} (h : upd = true → det = true) :
    (reverberate len q det upd cnt).upd = true → (reverberate len q det upd cnt).det = true := by
  unfold reverberate
  split
  · dsimp only
    split <;> exact fun _ => rfl
  · next hdet =>
    split
    · exact fun _ => rfl
    · exact fun hu => absurd (h hu) hdet

theorem ElChange.keeps_trigUpdSound (h : ElChange s u) (hs : trigUpdSound s) : trigUpdSound u := by
  unfold trigUpdSound at hs ⊢
  cases h with
  | kept hel _ _ => rwa [hel]
  | cleared hel _ _ =>
    rw [hel]
    decide
  | stepped x _ hel _ _ _ _ =>
    rw [hel]
    exact reverberate_upd_imp_det hs

/-! ### EL: the sliding sum (R135) -/

/-- R135 in SQUARE mode: the register holds the sum of the delay line's entries in use. -/
def SumsLine (len : Nat) (e : ElState) : Prop :=
  e.mfSum.toInt = sumTo len fun k => (tabGet e.mfb k).toInt

theorem slidingSum_iff :
    slidingSum s ↔ (s.elRdy = true → s.cfg.elMfShape.toNat = 0 →
      SumsLine s.cfg.elSymLen.toNat s.el) := Iff.rfl

theorem sumsLine_zero (len : Nat) : SumsLine len ElState.zero := by
  show (0 : Int) = sumTo len fun _ => 0
  rw [sumTo_eq_sum]
  simp

end

section

variable {c : ConfigRegs} {e : ElState} {x : Int}

/-- R135: adding the new sample and dropping the one it overwrites gives the sum of the new line. -/
theorem mfOutput_square (mfc : Table 16) (hshape : c.elMfShape.toNat = 0)
    (hx : -32768 ≤ x ∧ x ≤ 32767) (hix : e.mfIx.toNat < c.elSymLen.toNat)
    (hsum : SumsLine c.elSymLen.toNat e) :
    mfOutput c mfc e x = sumTo c.elSymLen.toNat fun k => (tabGet (mfWrite e x) k).toInt := by
  have hline (k : Nat) : (tabGet (mfWrite e x) k).toInt =
      if k = e.mfIx.toNat then x else (tabGet e.mfb k).toInt := by
    unfold mfWrite
    rw [tabGet_tabSet, apply_ite BitVec.toInt, ofInt16_toInt hx.1 hx.2]
  simp only [hline]
  rw [sumTo_update _ x hix, ← hsum, mfOutput, if_pos hshape]

/-- R142 (a): 256 samples of 16 bits, or 256 products of 32 bits with 15 fraction bits dropped. -/
theorem mfOutput_abs_le (mfc : Table 16) (hcap : c.elSymLen.toNat ≤ 256)
    (hx : -32768 ≤ x ∧ x ≤ 32767) (hix : e.mfIx.toNat < c.elSymLen.toNat)
    (hsum : c.elMfShape.toNat = 0 → SumsLine c.elSymLen.toNat e) :
    |mfOutput c mfc e x| ≤ 2 ^ 23 := by
  have hlen : |mfOutput c mfc e x| ≤ (c.elSymLen.toNat : Int) * 32768 := by
    by_cases hshape : c.elMfShape.toNat = 0
    · rw [mfOutput_square mfc hshape hx hix (hsum hshape)]
      exact abs_le.2 (sumTo_bound _ fun k _ => abs_le.1 (toInt_abs_le _))
    · rw [mfOutput, if_neg hshape]
      apply asr15_abs_le
      have h := firSum_after_write_abs_le mfc e.mfb (BitVec.ofInt 16 x) (c := 0) hix le_rfl
        (fun k => toInt_abs_le _) (by linarith [toInt_abs_le (BitVec.ofInt 16 x)])
      unfold mfWrite
      linarith
  have : (c.elSymLen.toNat : Int) ≤ 256 := by exact_mod_cast hcap
  linarith

/-- R137: a difference of two magnitudes is no larger than either can be. -/
theorem timingError_abs_le {mf : Int} (hmf : |mf| ≤ 2 ^ 23)
    (hegb : ∀ k, within (2 ^ 23) (tabGet e.egb k).toInt) : |timingError e mf| ≤ 2 ^ 23 := by
  have hearly := abs_le.2 (hegb e.egIx.toNat)
  have h0 := abs_nonneg (tabGet e.egb e.egIx.toNat).toInt
  have h1 := abs_nonneg mf
  unfold timingError
  rw [absInt_eq_abs, absInt_eq_abs, abs_le]
  constructor <;> linarith

/-- A value within `b` stays within `b` in a 32-bit register. -/
theorem ofInt32_within {b v : Int} (hb : b ≤ 2147483647) (hv : |v| ≤ b) :
    within b (BitVec.ofInt 32 v).toInt := by
  obtain ⟨hlo, hhi⟩ := abs_le.1 hv
  rw [ofInt32_toInt (by linarith) (by linarith)]
  exact ⟨hlo, hhi⟩

/-- A line whose entries are within `b` after the write of a value within `b`. -/
theorem tabSet_within {b v : Int} {line : Table 32} (ix : Nat) (hb : b ≤ 2147483647)
    (hv : |v| ≤ b) (hline : ∀ k, within b (tabGet line k).toInt) (k : Nat) :
    within b (tabGet (tabSet line ix (BitVec.ofInt 32 v)) k).toInt := by
  rw [tabGet_tabSet]
  split
  · exact ofInt32_within hb hv
  · exact hline k

/-- R138, R142 (a): at most 255 taps over values within 2^23. -/
theorem tlOutput_abs_le {te : Int} (tlc : Table 16) (hcap : c.elTlLen.toNat ≤ 255)
    (hix : e.tlIx.toNat < c.elTlLen.toNat) (hte : |te| ≤ 2 ^ 23)
    (htlb : ∀ k, within (2 ^ 23) (tabGet e.tlb k).toInt) :
    |tlOutput c tlc e te| ≤ 255 * 2 ^ 23 := by
  have hlen : |tlOutput c tlc e te| ≤ (c.elTlLen.toNat : Int) * 2 ^ 23 := by
    apply asr15_abs_le
    have hnew := abs_le.2 (ofInt32_within (by norm_num) hte)
    have h := firSum_after_write_abs_le tlc e.tlb (BitVec.ofInt 32 te) (c := 0) hix le_rfl
      (fun k => abs_le.2 (htlb k)) (by linarith)
    unfold tlWrite
    linarith
  have : (c.elTlLen.toNat : Int) ≤ 255 := by exact_mod_cast hcap
  linarith

end

section

variable {i : Instr} {s u : State}

/-- What a step of a sound EL puts into EL_MFSUM and EGB. -/
theorem mfOutput_abs_le_of_slidingSum (hs : slidingSum s) (x : Int) (hx : -32768 ≤ x ∧ x ≤ 32767)
    (hr : s.elRdy = true) (hsound : elSound s) :
    |mfOutput s.cfg s.host.mfc s.el x| ≤ 2 ^ 23 := by
  obtain ⟨⟨-, hcap, -⟩, hix, -⟩ := hsound
  exact mfOutput_abs_le s.host.mfc hcap hx hix (slidingSum_iff.1 hs hr)

theorem ElChange.keeps_slidingSum (h : ElChange s u) (hs : slidingSum s) : slidingSum u := by
  have hs' := slidingSum_iff.1 hs
  rw [slidingSum_iff]
  intro hr hshape
  cases h with
  | kept hel _ hk =>
    obtain ⟨hr', hregs⟩ := hk hr
    have hSym : u.cfg.elSymLen = s.cfg.elSymLen := hregs .elSymLen rfl
    have hShape : u.cfg.elMfShape = s.cfg.elMfShape := hregs .elMfShape rfl
    rw [hel, hSym]
    exact hs' hr' (hShape ▸ hshape)
  | cleared hel _ _ =>
    rw [hel]
    exact sumsLine_zero _
  | stepped x hx hel hcfg _ hready hsound =>
    rw [hcfg] at hshape ⊢
    rw [hel]
    obtain ⟨-, hix, -⟩ := id hsound
    obtain ⟨hlo, hhi⟩ := abs_le.1 (mfOutput_abs_le_of_slidingSum hs x hx hready hsound)
    show (BitVec.ofInt 32 (mfOutput s.cfg s.host.mfc s.el x)).toInt = _
    rw [ofInt32_toInt (by linarith) (by linarith)]
    exact mfOutput_square s.host.mfc hshape hx hix (hs' hready hshape)

/-! ### EL: the bounds of R142 (a) -/

theorem elBounded_congr (h : u.el = s.el) (hs : elBounded s) : elBounded u := by
  unfold elBounded
  rw [h]
  exact hs

theorem elBounded_of_cleared (h : u.el = ElState.zero) : elBounded u := by
  have hzero (b : Int) (hb : 0 ≤ b) : within b (0#32).toInt := by
    show -b ≤ 0 ∧ 0 ≤ b
    omega
  unfold elBounded
  rw [h]
  exact ⟨hzero _ (by norm_num), fun _ => hzero _ (by norm_num), fun _ => hzero _ (by norm_num),
    hzero _ (by norm_num)⟩

theorem ElChange.keeps_elBounded (h : ElChange s u) (hb : elBounded s) (hsum : slidingSum s) :
    elBounded u := by
  cases h with
  | kept hel _ _ => exact elBounded_congr hel hb
  | cleared hel _ _ => exact elBounded_of_cleared hel
  | stepped x hx hel _ _ hready hsound =>
    obtain ⟨-, hEgb, hTlb, -⟩ := hb
    have hmf := mfOutput_abs_le_of_slidingSum hsum x hx hready hsound
    have hte := timingError_abs_le hmf hEgb
    obtain ⟨⟨-, -, -, -, -, hcap, -⟩, -, -, hix, -⟩ := hsound
    have hlf := tlOutput_abs_le s.host.tlc hcap hix hte hTlb
    unfold elBounded
    rw [hel]
    exact ⟨ofInt32_within (by norm_num) hmf, tabSet_within _ (by norm_num) hmf hEgb,
      tabSet_within _ (by norm_num) hte hTlb, ofInt32_within (by norm_num) hlf⟩

/-! ### The whole invariant -/

theorem saneState_of_leaves (hs : saneState s) (h : Leaves i s u) : saneState u := by
  obtain ⟨hwf, hready, hupd, hfb, hbounded, hsum⟩ := hs
  obtain ⟨hHost, hCl, hEl, hSd⟩ := memory_wf_iff.1 hwf
  refine ⟨memory_wf_iff.2 ⟨h.hostWf hHost, h.clChange.wf hCl, h.elChange.wf hEl,
    h.sdChange.wf hSd⟩, readySound_of_leaves hready h, ?_, ?_, ?_, ?_⟩
  · exact h.elChange.keeps_trigUpdSound hupd
  · exact h.clChange.keeps_fbInRange hfb
  · exact h.elChange.keeps_elBounded hbounded hsum
  · exact h.elChange.keeps_slidingSum hsum

theorem saneState_reset : saneState State.reset :=
  ⟨memory_wf_at_reset, readySound_reset, by decide, by decide, elBounded_of_cleared rfl,
    fun hr => absurd hr (by decide)⟩

theorem saneState_step {t : State} (hs : saneState s) (h : step s = .next t) : saneState t :=
  step_preserves (fun _ _ _ _ => id) saneState_reset (fun _ _ _ => saneState_of_leaves) hs h

end

end Sys2Proof.Machine

namespace Sys2Proof.Proofs

open Sys2Proof.Machine

/-- Settles O17: no unit is READY at reset, and every register and table is 0. -/
theorem resetStateIsSane : Obligations.ResetStateIsSane := saneState_reset

/-- Settles O20: the invariant holds at reset and every change a command makes to a unit keeps that
unit's clauses; the bound of EL_MFSUM rests on the sliding sum. -/
theorem saneStatesStaySane : Obligations.SaneStatesStaySane := by
  intro s t hs h
  exact saneState_step hs h

end Sys2Proof.Proofs
end

section
/-! PROOFS. The canonical form of the thirteen tables (spec/20_memory.md R61, R63, log 6) as an
invariant on its own, from the changes a command can make to each part that holds tables. -/

namespace Sys2Proof.Machine

variable {i : Instr} {s t u : State}

/-- Writes land inside the capacity without `readySound` as a premise, because a unit whose indices
are outside its lengths does not step. -/
theorem memory_wf_of_leaves (hs : Memory.wf s = true) (h : Leaves i s u) :
    Memory.wf u = true := by
  obtain ⟨hHost, hCl, hEl, hSd⟩ := memory_wf_iff.1 hs
  exact memory_wf_iff.2
    ⟨h.hostWf hHost, h.clChange.wf hCl, h.elChange.wf hEl, h.sdChange.wf hSd⟩

theorem memory_wf_step (hs : Memory.wf s = true) (h : step s = .next t) : Memory.wf t = true :=
  step_preserves (P := fun s => Memory.wf s = true) (fun _ _ _ _ => id) memory_wf_at_reset
    (fun _ _ _ => memory_wf_of_leaves) hs h

end Sys2Proof.Machine

namespace Sys2Proof.Proofs

open Sys2Proof.Machine

/-- Settles O19: WRTAB writes inside the capacity only, a step of a sound unit writes inside the
lengths in use, and every other change keeps or empties the tables. -/
theorem tablesStayCanonical : Obligations.TablesStayCanonical := by
  intro s t hs h
  exact memory_wf_step hs h

end Sys2Proof.Proofs
end

section
/-! PROOFS. The decoder and the encoder (spec/30_encoding.md R81 to R85) are inverse, and the decoder
accepts the words of the opcode map R84 and no other. The one fact behind both: in every format a
must-be-zero check says that the field is its operand's low bits, widened. -/

namespace Sys2Proof

/-! ### A field and its low bits -/

section

variable {n lo len : Nat}

theorem extractLsb'_setWidth_low (x : BitVec lo) (h : lo ≤ n) :
    (x.setWidth n).extractLsb' 0 lo = x := by
  rw [BitVec.extractLsb'_setWidth_of_le (by omega), BitVec.extractLsb'_eq_self]

/-- The bits from `lo` up are zero when the field is its low bits, widened. -/
theorem extractLsb'_high_eq_zero_iff (v : BitVec n) (h : lo + len = n) :
    v.extractLsb' lo len = 0#len ↔ v = (v.extractLsb' 0 lo).setWidth n := by
  constructor
  · intro hz
    apply BitVec.eq_of_getLsbD_eq
    intro k hk
    by_cases hlo : k < lo
    · simp [hk, hlo]
    · have hbit : (v.extractLsb' lo len).getLsbD (k - lo) = false := by simp [hz]
      rw [BitVec.getLsbD_extractLsb', show lo + (k - lo) = k by omega] at hbit
      simpa [hlo, show k - lo < len by omega] using hbit
  · intro hv
    apply BitVec.eq_of_getLsbD_eq
    intro k hk
    rw [hv]
    simp

/-- The ones from bit `lo` up. -/
def highOnes (n lo : Nat) : BitVec n := BitVec.allOnes n <<< lo

/-- The same, said with the mask of those bits. -/
theorem and_highOnes_eq_zero_iff {v : BitVec n} :
    v &&& highOnes n lo = 0#n ↔ v = (v.extractLsb' 0 lo).setWidth n := by
  unfold highOnes
  constructor
  · intro hz
    apply BitVec.eq_of_getLsbD_eq
    intro k hk
    have hbit : (v &&& BitVec.allOnes n <<< lo).getLsbD k = false := by simp [hz]
    by_cases hlo : k < lo
    · simp [hk, hlo]
    · simpa [hk, hlo, show k - lo < n by omega] using hbit
  · intro hv
    apply BitVec.eq_of_getLsbD_eq
    intro k hk
    rw [hv]
    by_cases hlo : k < lo <;> simp [hlo]

theorem setWidth_extractLsb'_one (v : BitVec n) (h : 0 < n) :
    (v.extractLsb' 0 1).setWidth n = if v.getLsbD 0 then 1#n else 0#n := by
  apply BitVec.eq_of_getLsbD_eq
  intro k hk
  split
  · next hb => cases k <;> simp [hb, h]
  · next hb => cases k <;> simp [hb]

theorem eq_zero_of_low_zero {v : BitVec n} (h : v = (v.extractLsb' 0 0).setWidth n) :
    v = 0#n := by
  rw [h, BitVec.of_length_zero (x := v.extractLsb' 0 0), BitVec.setWidth_zero]

end

/-! ### Words field by field (R81) -/

theorem word_eq_iff {w w' : Word} :
    w = w' ↔ fieldOp w = fieldOp w' ∧ fieldT w = fieldT w' ∧ fieldA w = fieldA w'
      ∧ fieldD w = fieldD w' := by
  constructor
  · rintro rfl
    exact ⟨rfl, rfl, rfl, rfl⟩
  · rintro ⟨hop, ht, ha, hd⟩
    rw [← joinFields_fields w, hop, ht, ha, hd, joinFields_fields]

theorem fieldOp_and (w m : Word) : fieldOp (w &&& m) = fieldOp w &&& fieldOp m :=
  BitVec.extractLsb'_and

theorem fieldT_and (w m : Word) : fieldT (w &&& m) = fieldT w &&& fieldT m :=
  BitVec.extractLsb'_and

theorem fieldA_and (w m : Word) : fieldA (w &&& m) = fieldA w &&& fieldA m :=
  BitVec.extractLsb'_and

theorem fieldD_and (w m : Word) : fieldD (w &&& m) = fieldD w &&& fieldD m :=
  BitVec.extractLsb'_and

@[simp] theorem fieldOp_encode (i : Instr) : fieldOp (encode i) = opcode i :=
  fieldOp_joinFields _ _ _ _

@[simp] theorem fieldT_encode (i : Instr) : fieldT (encode i) = encodeT i :=
  fieldT_joinFields _ _ _ _

@[simp] theorem fieldA_encode (i : Instr) : fieldA (encode i) = encodeA i :=
  fieldA_joinFields _ _ _ _

@[simp] theorem fieldD_encode (i : Instr) : fieldD (encode i) = encodeD i :=
  fieldD_joinFields _ _ _ _

theorem encode_eq_iff {i : Instr} {w : Word} :
    encode i = w ↔
      fieldOp w = opcode i ∧ fieldT w = encodeT i ∧ fieldA w = encodeA i ∧ fieldD w = encodeD i := by
  rw [eq_comm, word_eq_iff, fieldOp_encode, fieldT_encode, fieldA_encode, fieldD_encode]

/-! ### The formats (R82): the must-be-zero bits are zero when the field is its operand, widened -/

theorem fieldA_operandN_iff {w : Word} :
    (fieldA w).extractLsb' 8 8 = 0#8 ↔ fieldA w = (operandN w).setWidth 16 :=
  extractLsb'_high_eq_zero_iff _ rfl

theorem fieldD_operandX_iff {w : Word} :
    hi16 (fieldD w) = 0#16 ↔ fieldD w = (operandX w).setWidth 32 :=
  extractLsb'_high_eq_zero_iff _ rfl

theorem fieldT_operandB_iff {w : Word} :
    (fieldT w).extractLsb' 1 7 = 0#7 ↔
      fieldT w = if operandB w = .sdb1 then 1#8 else 0#8 := by
  rw [extractLsb'_high_eq_zero_iff _ rfl, setWidth_extractLsb'_one _ (by decide)]
  simp [operandB]

theorem fieldD_cur_iff {w : Word} :
    (fieldD w).extractLsb' 6 26 = 0#26 ↔ fieldD w = ((fieldD w).extractLsb' 0 6).setWidth 32 :=
  extractLsb'_high_eq_zero_iff _ rfl

theorem fieldD_burst_iff {w : Word} :
    (fieldD w).extractLsb' 1 31 = 0#31 ↔
      fieldD w = if (fieldD w).getLsbD 0 then 1#32 else 0#32 := by
  rw [extractLsb'_high_eq_zero_iff _ rfl, setWidth_extractLsb'_one _ (by decide)]

theorem mbzN_iff {w : Word} :
    mbzN w = true ↔ fieldT w = 0#8 ∧ fieldA w = 0#16 ∧ fieldD w = 0#32 := by
  simp [mbzN, and_assoc]

theorem mbzRW_iff {w : Word} :
    mbzRW w = true ↔ fieldT w = 0#8 ∧ fieldA w = (operandN w).setWidth 16 := by
  simp [mbzRW, ← fieldA_operandN_iff]

theorem mbzRR_iff {w : Word} :
    mbzRR w = true ↔ fieldT w = 0#8 ∧ fieldA w = (operandN w).setWidth 16 ∧ fieldD w = 0#32 := by
  simp [mbzRR, mbzRW_iff, and_assoc]

theorem mbzTR_iff {w : Word} : mbzTR w = true ↔ fieldD w = 0#32 := by
  simp [mbzTR]

theorem mbzS_iff {w : Word} :
    mbzS w = true ↔ fieldT w = 0#8 ∧ fieldA w = 0#16 ∧ fieldD w = (operandX w).setWidth 32 := by
  simp [mbzS, and_assoc, ← fieldD_operandX_iff]

theorem mbzSB_iff {w : Word} :
    mbzSB w = true ↔ (fieldT w = if operandB w = .sdb1 then 1#8 else 0#8) ∧ fieldA w = 0#16
      ∧ fieldD w = (operandX w).setWidth 32 := by
  simp [mbzSB, and_assoc, ← fieldD_operandX_iff, ← fieldT_operandB_iff]

theorem mbzP_iff {w : Word} : mbzP w = true ↔ fieldT w = 0#8 ∧ fieldA w = 0#16 := by
  simp [mbzP]

theorem mbzX_iff {w : Word} :
    mbzX w = true ↔ fieldT w = 0#8 ∧ fieldA w = 0#16
      ∧ fieldD w = ((fieldD w).extractLsb' 0 6).setWidth 32 := by
  simp [mbzX, and_assoc, ← fieldD_cur_iff]

theorem mbzB_iff {w : Word} :
    mbzB w = true ↔ fieldT w = 0#8 ∧ fieldA w = 0#16
      ∧ fieldD w = if (fieldD w).getLsbD 0 then 1#32 else 0#32 := by
  rw [← fieldD_burst_iff]
  simp [mbzB, and_assoc]

/-! ### A word that decodes -/

theorem whenMbz_eq_ok {op : BitVec 8} {ok : Bool} {i j : Instr} :
    whenMbz op ok i = .ok j ↔ ok = true ∧ i = j := by
  cases ok <;> simp [whenMbz]

theorem encode_of_whenMbz {op : BitVec 8} {ok : Bool} {i j : Instr} {w : Word}
    (h : whenMbz op ok i = .ok j) (hop : fieldOp w = opcode i)
    (hf : ok = true → fieldT w = encodeT i ∧ fieldA w = encodeA i ∧ fieldD w = encodeD i) :
    encode j = w := by
  obtain ⟨hok, rfl⟩ := whenMbz_eq_ok.1 h
  exact encode_eq_iff.2 ⟨hop, hf hok⟩

theorem encode_of_decode {w : Word} {i : Instr} (h : decode w = .ok i) : encode i = w := by
  unfold decode at h
  split at h
  · next hop => exact encode_of_whenMbz h hop mbzN_iff.1
  · next hop =>
    refine encode_of_whenMbz h hop fun hm => ?_
    obtain ⟨ht, ha⟩ := mbzRW_iff.1 hm
    exact ⟨ht, ha, rfl⟩
  · next hop => exact encode_of_whenMbz h hop mbzRR_iff.1
  · next hop =>
    cases h
    exact encode_eq_iff.2 ⟨hop, rfl, rfl, rfl⟩
  · next hop => exact encode_of_whenMbz h hop fun hm => ⟨rfl, rfl, mbzTR_iff.1 hm⟩
  · next hop => exact encode_of_whenMbz h hop mbzN_iff.1
  · next hop => exact encode_of_whenMbz h hop mbzN_iff.1
  · next hop => exact encode_of_whenMbz h hop mbzS_iff.1
  · next hop => exact encode_of_whenMbz h hop mbzN_iff.1
  · next hop => exact encode_of_whenMbz h hop mbzN_iff.1
  · next hop => exact encode_of_whenMbz h hop mbzS_iff.1
  · next hop => exact encode_of_whenMbz h hop mbzN_iff.1
  · next hop => exact encode_of_whenMbz h hop mbzN_iff.1
  · next hop => exact encode_of_whenMbz h hop mbzSB_iff.1
  · next hop => exact encode_of_whenMbz h hop mbzN_iff.1
  · next hop => exact encode_of_whenMbz h hop mbzN_iff.1
  · next hop =>
    refine encode_of_whenMbz h hop fun hm => ?_
    obtain ⟨ht, ha⟩ := mbzP_iff.1 hm
    exact ⟨ht, ha, (hi16_append_lo16 _).symm⟩
  · next hop => exact encode_of_whenMbz h hop mbzX_iff.1
  · next hop => exact encode_of_whenMbz h hop mbzS_iff.1
  · next hop => exact encode_of_whenMbz h hop mbzB_iff.1
  · next hop => exact encode_of_whenMbz h hop mbzN_iff.1
  · cases h

/-! ### The operands and formats of an encoded command -/

theorem operandN_encode {i : Instr} {n : BitVec 8} (ha : encodeA i = n.setWidth 16) :
    operandN (encode i) = n := by
  rw [operandN, fieldA_encode, ha, extractLsb'_setWidth_low n (by decide)]

theorem operandX_encode {i : Instr} {x : Sample} (hd : encodeD i = x.setWidth 32) :
    operandX (encode i) = x := by
  rw [operandX, lo16, fieldD_encode, hd, extractLsb'_setWidth_low x (by decide)]

theorem operandB_encode (b : Buffer) (x : Sample) : operandB (encode (.sdDelay b x)) = b := by
  cases b <;> simp [operandB, encodeT]

theorem mbzN_encode {i : Instr} (ht : encodeT i = 0#8) (ha : encodeA i = 0#16)
    (hd : encodeD i = 0#32) : mbzN (encode i) = true := by
  rw [mbzN_iff, fieldT_encode, fieldA_encode, fieldD_encode]
  exact ⟨ht, ha, hd⟩

theorem mbzS_encode {i : Instr} {x : Sample} (ht : encodeT i = 0#8) (ha : encodeA i = 0#16)
    (hd : encodeD i = x.setWidth 32) : mbzS (encode i) = true := by
  rw [mbzS_iff, fieldT_encode, fieldA_encode, fieldD_encode, operandX_encode hd]
  exact ⟨ht, ha, hd⟩

theorem decode_encode (i : Instr) : decode (encode i) = .ok i := by
  unfold decode
  rw [fieldOp_encode]
  cases i with
  | nop | clInit | clReset | elInit | elReset | sdInit | sdReset | ddInit | ddReset | dmReset =>
    exact whenMbz_eq_ok.2 ⟨mbzN_encode rfl rfl rfl, rfl⟩
  | clStep x | elStep x | dmStep x =>
    exact whenMbz_eq_ok.2 ⟨mbzS_encode rfl rfl rfl, by rw [operandX_encode rfl]⟩
  | wrreg n v =>
    have hn : operandN (encode (.wrreg n v)) = n := operandN_encode rfl
    refine whenMbz_eq_ok.2 ⟨mbzRW_iff.2 ?_, ?_⟩ <;> simp [hn, encodeT, encodeA, encodeD]
  | rdreg n =>
    have hn : operandN (encode (.rdreg n)) = n := operandN_encode rfl
    refine whenMbz_eq_ok.2 ⟨mbzRR_iff.2 ?_, ?_⟩ <;> simp [hn, encodeT, encodeA, encodeD]
  | wrtab sel idx v =>
    show Except.ok (Instr.wrtab _ _ _) = _
    simp [encodeT, encodeA, encodeD]
  | rdtab sel idx =>
    refine whenMbz_eq_ok.2 ⟨mbzTR_iff.2 ?_, ?_⟩ <;> simp [encodeT, encodeA, encodeD]
  | sdDelay b x =>
    have hb : operandB (encode (.sdDelay b x)) = b := operandB_encode b x
    have hx : operandX (encode (.sdDelay b x)) = x := operandX_encode rfl
    refine whenMbz_eq_ok.2 ⟨mbzSB_iff.2 ?_, ?_⟩ <;> simp [hb, hx, encodeT, encodeA, encodeD]
  | ddSlice pi pq =>
    refine whenMbz_eq_ok.2 ⟨mbzP_iff.2 ?_, ?_⟩ <;>
      simp [encodeT, encodeA, encodeD, hi16_append, lo16_append]
  | ddDiff cur =>
    have hc : (cur.setWidth 32).extractLsb' 0 6 = cur := extractLsb'_setWidth_low cur (by decide)
    refine whenMbz_eq_ok.2 ⟨mbzX_iff.2 ?_, ?_⟩ <;> simp [hc, encodeT, encodeA, encodeD]
  | dmBurst p =>
    refine whenMbz_eq_ok.2 ⟨mbzB_iff.2 ?_, ?_⟩ <;> cases p <;> simp [encodeT, encodeA, encodeD]

/-- R81 to R84: a word decodes to the one command whose encoding it is. -/
theorem decode_eq_ok_iff {w : Word} {i : Instr} : decode w = .ok i ↔ encode i = w := by
  constructor
  · exact encode_of_decode
  · rintro rfl
    exact decode_encode i

/-! ### The rows of the opcode map (R84) -/

/-- How many low bits of t, a and d are operand bits in a command's format (R82, R83); the bits
above them must be zero. -/
def operandWidths : Instr → Nat × Nat × Nat
  | .nop | .clInit | .clReset | .elInit | .elReset | .sdInit | .sdReset | .ddInit | .ddReset
  | .dmReset => (0, 0, 0)
  | .wrreg _ _ => (0, 8, 32)
  | .rdreg _ => (0, 8, 0)
  | .wrtab _ _ _ => (8, 16, 32)
  | .rdtab _ _ => (8, 16, 0)
  | .clStep _ | .elStep _ | .dmStep _ => (0, 0, 16)
  | .sdDelay _ _ => (1, 0, 16)
  | .ddSlice _ _ => (0, 0, 32)
  | .ddDiff _ => (0, 0, 6)
  | .dmBurst _ => (0, 0, 1)

/-- The row of a command: its mask is the opcode byte and the must-be-zero bits. -/
def rowOf (i : Instr) : OpcodeRow where
  mnemonic := mnemonicOf i
  pattern := joinFields (opcode i) 0#8 0#16 0#32
  mask :=
    joinFields (BitVec.allOnes 8) (highOnes 8 (operandWidths i).1)
      (highOnes 16 (operandWidths i).2.1) (highOnes 32 (operandWidths i).2.2)

/-- A word matches the row of `i` when it has its opcode byte and its must-be-zero bits are zero. -/
theorem matches_rowOf_iff {w : Word} {i : Instr} :
    w &&& (rowOf i).mask = (rowOf i).pattern ↔
      fieldOp w = opcode i
        ∧ fieldT w = ((fieldT w).extractLsb' 0 (operandWidths i).1).setWidth 8
        ∧ fieldA w = ((fieldA w).extractLsb' 0 (operandWidths i).2.1).setWidth 16
        ∧ fieldD w = ((fieldD w).extractLsb' 0 (operandWidths i).2.2).setWidth 32 := by
  rw [word_eq_iff, fieldOp_and, fieldT_and, fieldA_and, fieldD_and]
  simp only [rowOf, fieldOp_joinFields, fieldT_joinFields, fieldA_joinFields, fieldD_joinFields,
    BitVec.and_allOnes]
  rw [and_highOnes_eq_zero_iff, and_highOnes_eq_zero_iff, and_highOnes_eq_zero_iff]

theorem encode_matches_rowOf (i : Instr) : encode i &&& (rowOf i).mask = (rowOf i).pattern := by
  rw [matches_rowOf_iff, fieldOp_encode, fieldT_encode, fieldA_encode, fieldD_encode]
  refine ⟨rfl, ?_⟩
  cases i with
  | sdDelay b x =>
    cases b <;> simp [encodeT, encodeA, encodeD, operandWidths, extractLsb'_setWidth_low]
  | dmBurst p => cases p <;> simp [encodeT, encodeA, encodeD, operandWidths]
  | _ => simp [encodeT, encodeA, encodeD, operandWidths, extractLsb'_setWidth_low]

/-! ### Reading a row's operands from a word -/

/-- The command of the row of `i` whose operands are the fields of `w` (R83). -/
def readOperands (w : Word) : Instr → Instr
  | .wrreg _ _ => .wrreg (operandN w) (fieldD w)
  | .rdreg _ => .rdreg (operandN w)
  | .wrtab _ _ _ => .wrtab (fieldT w) (fieldA w) (fieldD w)
  | .rdtab _ _ => .rdtab (fieldT w) (fieldA w)
  | .clStep _ => .clStep (operandX w)
  | .elStep _ => .elStep (operandX w)
  | .sdDelay _ _ => .sdDelay (operandB w) (operandX w)
  | .ddSlice _ _ => .ddSlice (hi16 (fieldD w)) (lo16 (fieldD w))
  | .ddDiff _ => .ddDiff ((fieldD w).extractLsb' 0 6)
  | .dmStep _ => .dmStep (operandX w)
  | .dmBurst _ => .dmBurst ((fieldD w).getLsbD 0)
  | i => i

theorem rowOf_readOperands (w : Word) (i : Instr) : rowOf (readOperands w i) = rowOf i := by
  cases i <;> rfl

theorem encode_readOperands {w : Word} {i : Instr}
    (h : w &&& (rowOf i).mask = (rowOf i).pattern) : encode (readOperands w i) = w := by
  obtain ⟨hop, ht, ha, hd⟩ := matches_rowOf_iff.1 h
  rw [encode_eq_iff]
  cases i with
  | nop | clInit | clReset | elInit | elReset | sdInit | sdReset | ddInit | ddReset | dmReset =>
    exact ⟨hop, eq_zero_of_low_zero ht, eq_zero_of_low_zero ha, eq_zero_of_low_zero hd⟩
  | wrreg n v => exact ⟨hop, eq_zero_of_low_zero ht, ha, rfl⟩
  | rdreg n => exact ⟨hop, eq_zero_of_low_zero ht, ha, eq_zero_of_low_zero hd⟩
  | wrtab sel idx v => exact ⟨hop, rfl, rfl, rfl⟩
  | rdtab sel idx => exact ⟨hop, rfl, rfl, eq_zero_of_low_zero hd⟩
  | clStep x | elStep x | dmStep x =>
    exact ⟨hop, eq_zero_of_low_zero ht, eq_zero_of_low_zero ha, hd⟩
  | sdDelay b x =>
    exact ⟨hop, fieldT_operandB_iff.1 ((extractLsb'_high_eq_zero_iff _ rfl).2 ht),
      eq_zero_of_low_zero ha, hd⟩
  | ddSlice pi pq =>
    exact ⟨hop, eq_zero_of_low_zero ht, eq_zero_of_low_zero ha, (hi16_append_lo16 _).symm⟩
  | ddDiff cur => exact ⟨hop, eq_zero_of_low_zero ht, eq_zero_of_low_zero ha, hd⟩
  | dmBurst p =>
    exact ⟨hop, eq_zero_of_low_zero ht, eq_zero_of_low_zero ha,
      fieldD_burst_iff.1 ((extractLsb'_high_eq_zero_iff _ rfl).2 hd)⟩

/-- One command of each row, in the order of the map. -/
def rowCommands : List Instr :=
  [.nop, .wrreg 0#8 0#32, .rdreg 0#8, .wrtab 0#8 0#16 0#32, .rdtab 0#8 0#16, .clInit, .clReset,
    .clStep 0#16, .elInit, .elReset, .elStep 0#16, .sdInit, .sdReset, .sdDelay .sdb0 0#16, .ddInit,
    .ddReset, .ddSlice 0#16 0#16, .ddDiff 0#6, .dmStep 0#16, .dmBurst false, .dmReset]

theorem opcodeMap_eq_map_rowOf : opcodeMap = rowCommands.map rowOf := by decide

theorem readOperands_mem_rowCommands (i : Instr) : readOperands 0#64 i ∈ rowCommands := by
  cases i <;> simp only [readOperands] <;> decide

theorem rowOf_mem_opcodeMap (i : Instr) : rowOf i ∈ opcodeMap := by
  rw [opcodeMap_eq_map_rowOf, ← rowOf_readOperands 0#64 i]
  exact List.mem_map_of_mem (readOperands_mem_rowCommands i)

/-- A row covers the words that decode to its commands, and no other. -/
theorem matches_iff_decodes {w : Word} {r : OpcodeRow} (hr : r ∈ opcodeMap) :
    w &&& r.mask = r.pattern ↔ ∃ i, decode w = .ok i ∧ rowOf i = r := by
  constructor
  · intro h
    rw [opcodeMap_eq_map_rowOf] at hr
    obtain ⟨i, -, rfl⟩ := List.mem_map.1 hr
    exact ⟨readOperands w i, decode_eq_ok_iff.2 (encode_readOperands h), rowOf_readOperands w i⟩
  · rintro ⟨i, hi, rfl⟩
    rw [← decode_eq_ok_iff.1 hi]
    exact encode_matches_rowOf i

theorem rowOf_eq_of_matches {w : Word} {r : OpcodeRow} {i : Instr} (hi : decode w = .ok i)
    (hr : r ∈ opcodeMap) (h : w &&& r.mask = r.pattern) : rowOf i = r := by
  obtain ⟨j, hj, rfl⟩ := (matches_iff_decodes hr).1 h
  rw [Except.ok.inj (hi.symm.trans hj)]

end Sys2Proof

namespace Sys2Proof.Proofs

/-- Settles O2: the fields of the encoded word are the encoder's, and each format's check and operands
read them back. -/
theorem decodeOfEncodeIsTheCommand : Obligations.DecodeOfEncodeIsTheCommand := by
  intro i _
  exact decode_encode i

/-- Settles O3: a format's must-be-zero bits and its operand bits are all bits of the word. -/
theorem encodeOfDecodeIsTheWord : Obligations.EncodeOfDecodeIsTheWord := by
  intro w i h
  exact encode_of_decode h

/-- Settles O4: the word of a command matches the command's row, and a word that matches a row is the
encoding of that row's command with the operands read from the word. -/
theorem decodeAcceptsExactlyTheMappedWords : Obligations.DecodeAcceptsExactlyTheMappedWords := by
  intro w
  refine ⟨⟨?_, ?_⟩, ?_⟩
  · rintro ⟨i, hi⟩
    exact ⟨rowOf i, rowOf_mem_opcodeMap i,
      (matches_iff_decodes (rowOf_mem_opcodeMap i)).2 ⟨i, hi, rfl⟩⟩
  · rintro ⟨r, hr, h⟩
    obtain ⟨i, hi, -⟩ := (matches_iff_decodes hr).1 h
    exact ⟨i, hi⟩
  · intro i hi r hr h
    rw [← rowOf_eq_of_matches hi hr h]
    rfl

/-- Settles O5: both rows are the row of the one command the word decodes to. -/
theorem atMostOneRowMatches : Obligations.AtMostOneRowMatches := by
  intro w r hr r' hr' h h'
  obtain ⟨i, hi, rfl⟩ := (matches_iff_decodes hr).1 h
  exact rowOf_eq_of_matches hi hr' h'

/-- Settles O1: closed words, evaluated. -/
theorem workedEncodingsDecode : Obligations.WorkedEncodingsDecode := by
  unfold Obligations.WorkedEncodingsDecode
  decide

end Sys2Proof.Proofs
end

section
/-! PROOFS. One response per command (spec/30_encoding.md R80, R86, R87) and what LASTERR records of it
(10_state.md R29); one step of the port (R85, R88) and a run over the words presented to it. -/

namespace Sys2Proof.Machine

section

variable {i : Instr} {s t u : State}

/-! ### The response and LASTERR -/

theorem Completes.ports_eq (h : Completes s i u) :
    u.lastErr = s.lastErr ∧ u.cmdPort = s.cmdPort ∧ u.rspPort = s.rspPort := by
  cases h with
  | dmStep x => rw [dmStepState_frame]; exact ⟨rfl, rfl, rfl⟩
  | _ => simp [flush]

/-- Every command that ends sends one response and leaves the command port; the response carries the
code that LASTERR records, or code 0 and LASTERR stays. -/
theorem exec_response (h : exec i s = .next t) :
    ∃ r, t.rspPort = s.rspPort ++ [packResponse r] ∧ t.cmdPort = s.cmdPort
      ∧ ((r.err = .ok ∧ t.lastErr = s.lastErr)
        ∨ ∃ e v c, e ≠ .ok ∧ r = { err := e } ∧ t.lastErr = lastErrWord (opcode i) e v c) := by
  cases exec_ends h with
  | completed hok hc =>
    obtain ⟨hlast, hcmd, hrsp⟩ := hc.ports_eq
    exact ⟨_, by rw [send_rspPort, hrsp], hcmd, .inl ⟨hok, hlast⟩⟩
  | failed he => exact ⟨_, rfl, rfl, .inr ⟨_, _, _, he, rfl, rfl⟩⟩

theorem code_of_ne_ok {e : ErrorCode} (he : e ≠ .ok) : 1 ≤ e.code.toNat ∧ e.code.toNat ≤ 6 := by
  cases e <;> simp [ErrorCode.code] at he ⊢

theorem packResponse_errField (r : Response) : (packResponse r).toNat / 2 ^ 60 = r.err.code.toNat := by
  rw [packResponse_toNat]
  have := r.sym.isLt
  have := r.idx.isLt
  have := r.data.isLt
  have := Bool.toNat_le r.fsep
  have := Bool.toNat_le r.trk
  have := Bool.toNat_le r.gated
  have := Bool.toNat_le r.rej
  have := Bool.toNat_le r.acc
  have := Bool.toNat_le r.trig
  omega

theorem packResponse_error_rest (e : ErrorCode) :
    (packResponse { err := e }).toNat % 2 ^ 60 = 0 := by
  cases e <;> decide

/-! ### The step of a presented word -/

theorem step_of_command {w : Word} {rest : List PortInput} (h : s.cmdPort = .command w :: rest) :
    step s = runWord w { s with cmdPort := rest } := by
  simp [step, h]

theorem runWord_of_decode {w : Word} (h : decode w = .ok i) : runWord w s = exec i s := by
  simp [runWord, h]

theorem runWord_of_illegal {w : Word} (h : ∀ r ∈ opcodeMap, w &&& r.mask ≠ r.pattern) :
    runWord w s = illegalCommand w s := by
  cases hw : decode w with
  | ok i =>
    have hr := rowOf_mem_opcodeMap i
    exact absurd ((matches_iff_decodes hr).2 ⟨i, hw, rfl⟩) (h _ hr)
  | error e => simp [runWord, hw]

/-! ### A sound block answers every word -/

/-- The result is a next state: no fault and no refusal. -/
def Answers (r : Result) : Prop := ∃ t, r = .next t

theorem answers_respond (r : Response) (s : State) : Answers (respond r s) := ⟨_, rfl⟩

theorem answers_raise (op : BitVec 8) (e : ErrorCode) (v : UnitId) (c : BitVec 8) (s : State) :
    Answers (raise op e v c s) := ⟨_, rfl⟩

theorem answers_ite {p : Prop} [Decidable p] {a b : Result} (ha : p → Answers a)
    (hb : ¬p → Answers b) : Answers (if p then a else b) := by
  split
  · next hp => exact ha hp
  · next hp => exact hb hp

/-- A step command of a unit faults only when the unit is READY and not sound. -/
theorem answers_of_sound {ready sound : Prop} [Decidable ready] [Decidable sound] {a b : Result}
    {f : Fault} (hs : ready → sound) (ha : Answers a) (hb : Answers b) :
    Answers (if ready then if sound then a else .fault f else b) :=
  answers_ite (fun hr => answers_ite (fun _ => ha) fun hn => absurd (hs hr) hn) fun _ => hb

theorem execWrtab_answers (sel : BitVec 8) (idx : BitVec 16) (v : Reg) (s : State) :
    Answers (execWrtab sel idx v s) := by
  unfold execWrtab
  split
  · exact answers_raise _ _ _ _ _
  · exact answers_ite
      (fun _ => answers_ite (fun _ => answers_respond _ _) fun _ => answers_raise _ _ _ _ _)
      fun _ => answers_raise _ _ _ _ _

theorem execRdtab_answers (sel : BitVec 8) (idx : BitVec 16) (s : State) :
    Answers (execRdtab sel idx s) := by
  unfold execRdtab
  split
  · exact answers_raise _ _ _ _ _
  · exact answers_ite (fun _ => answers_respond _ _) fun _ => answers_raise _ _ _ _ _

theorem execDdDiff_answers (cur : BitVec 6) (hdd : s.ddRdy = true → ddSound s) :
    Answers (execDdDiff cur s) :=
  answers_ite
    (fun hr => answers_of_sound (fun _ => hdd hr) (answers_respond _ _) (answers_raise _ _ _ _ _))
    fun _ => answers_raise _ _ _ _ _

theorem execDmStep_answers (x : Sample) (hs : readySound s) : Answers (execDmStep x s) := by
  obtain ⟨hcl, hel, hsd, hdd⟩ := hs
  refine answers_ite (fun _ => answers_raise _ _ _ _ _) fun hcr => ?_
  refine answers_ite (fun _ => answers_raise _ _ _ _ _) fun her => ?_
  refine answers_ite (fun _ => answers_raise _ _ _ _ _) fun hsr => ?_
  refine answers_ite (fun _ => answers_raise _ _ _ _ _) fun hdr => ?_
  refine answers_ite (fun _ => answers_raise _ _ _ _ _) fun _ => ?_
  rw [Bool.not_eq_false] at hcr her hsr hdr
  split
  · exact answers_respond _ _
  · rw [if_neg (not_not_intro (hcl hcr)), if_neg (not_not_intro (hel her)),
      if_neg (not_not_intro (hsd hsr)), if_neg (not_not_intro (hdd hdr))]
    exact answers_respond _ _

/-- R219: a fault needs a READY unit that is not sound. -/
theorem exec_answers_of_readySound (i : Instr) (hs : readySound s) : Answers (exec i s) := by
  obtain ⟨hcl, hel, hsd, hdd⟩ := hs
  cases i with
  | nop | clReset | elReset | sdReset | ddReset | dmReset => exact answers_respond _ _
  | wrreg | rdreg | clInit | elInit | sdInit | ddInit =>
    simp only [exec, execWrreg, execRdreg, execClInit, execElInit, execSdInit, execDdInit]
    split
    · exact answers_raise _ _ _ _ _
    · exact answers_respond _ _
  | wrtab sel idx v => exact execWrtab_answers sel idx v s
  | rdtab sel idx => exact execRdtab_answers sel idx s
  | clStep x => exact answers_of_sound hcl (answers_respond _ _) (answers_raise _ _ _ _ _)
  | elStep x => exact answers_of_sound hel (answers_respond _ _) (answers_raise _ _ _ _ _)
  | sdDelay b x => exact answers_of_sound hsd (answers_respond _ _) (answers_raise _ _ _ _ _)
  | ddSlice pi pq => exact answers_of_sound hdd (answers_respond _ _) (answers_raise _ _ _ _ _)
  | ddDiff cur => exact execDdDiff_answers cur hdd
  | dmStep x => exact execDmStep_answers x ⟨hcl, hel, hsd, hdd⟩
  | dmBurst p =>
    simp only [exec, execDmBurst]
    split <;> exact answers_respond _ _

/-- A taken word is answered once, and the rest of the port waits. -/
theorem runWord_of_readySound (w : Word) (hs : readySound s) :
    ∃ t r, runWord w s = .next t ∧ t.cmdPort = s.cmdPort ∧ t.rspPort = s.rspPort ++ [r] := by
  unfold runWord
  split
  · next i _ =>
    obtain ⟨t, ht⟩ := exec_answers_of_readySound i hs
    obtain ⟨r, hrsp, hcmd, -⟩ := exec_response ht
    exact ⟨t, _, ht, hcmd, hrsp⟩
  · exact ⟨_, _, rfl, rfl, rfl⟩

/-- A run as long as the words that wait takes each of them and answers it once. -/
theorem run_answers_every_word (words : List Word) (hs : readySound s)
    (hport : s.cmdPort = words.map .command) :
    ∃ t, core.run words.length s = .next t ∧ t.cmdPort = []
      ∧ t.rspPort.length = s.rspPort.length + words.length := by
  induction words generalizing s with
  | nil => exact ⟨s, rfl, hport, rfl⟩
  | cons w rest ih =>
    have hs' : readySound { s with cmdPort := rest.map .command } := hs
    obtain ⟨u, r, hu, hcmd, hrsp⟩ := runWord_of_readySound w hs'
    have hstep : step s = .next u := (step_of_command hport).trans hu
    obtain ⟨t, hrun, htcmd, htrsp⟩ := ih (readySound_step hs hstep) hcmd
    refine ⟨t, (run_of_next _ hstep).trans hrun, htcmd, ?_⟩
    simp only [htrsp, hrsp, List.length_append, List.length_cons, List.length_nil]
    omega

end

end Sys2Proof.Machine

namespace Sys2Proof.Proofs

open Sys2Proof.Machine Sys2Proof.Statements

/-- Settles O11: both ends of a command send once, and no command writes the command port. -/
theorem oneResponsePerCommand : Obligations.OneResponsePerCommand := by
  intro i s t h
  obtain ⟨r, hrsp, hcmd, -⟩ := exec_response h
  exact ⟨⟨_, hrsp⟩, hcmd⟩

/-- Settles O12: the one response is the completing command's, with code 0, or the code alone that
`raise` has put in LASTERR with the opcode. -/
theorem lastErrRecordsExactlyTheFailures : Obligations.LastErrRecordsExactlyTheFailures := by
  intro i s t w h hw
  obtain ⟨r, hrsp, -, hend⟩ := exec_response h
  obtain rfl : packResponse r = w := by simpa [hw, eq_comm] using hrsp
  have herr := packResponse_errField r
  obtain ⟨hok, hlast⟩ | ⟨e, v, c, he, rfl, hlast⟩ := hend
  · exact .inl ⟨herr.trans (by rw [hok]; rfl), hlast⟩
  · obtain ⟨hlo, hhi⟩ := code_of_ne_ok he
    have hv := v.num.isLt
    have hc := c.isLt
    dsimp only at herr
    rw [herr, hlast, lastErrWord_toNat]
    refine .inr ⟨hlo, hhi, packResponse_error_rest e, ?_, ?_, ?_⟩ <;> omega

/-- Settles O6: the port gives up its first word, and the decoder names the command that runs. -/
theorem stepRunsDecodedCommand : Obligations.StepRunsDecodedCommand := by
  intro s w rest i hport hw
  rw [step_of_command hport, runWord_of_decode hw]

/-- Settles O7: no row matches, so the decoder refuses the word and `raise` records its top byte. -/
theorem illegalWordRaisesIllegalCommand : Obligations.IllegalWordRaisesIllegalCommand := by
  intro s w rest hport hw
  rw [step_of_command hport, runWord_of_illegal hw, illegalCommand, raise_eq_failed, fieldOp_toNat]
  rfl

/-- Settles O24: every state of the run has sound READY units, so no word stops it. -/
theorem everyWordIsAnswered : Obligations.EveryWordIsAnswered := by
  intro words
  obtain ⟨t, hrun, hcmd, hrsp⟩ :=
    run_answers_every_word (s := afterResetWith (words.map .command)) words readySound_reset rfl
  exact ⟨t, hrun, hcmd, hrsp.trans (Nat.zero_add _)⟩

end Sys2Proof.Proofs
end

section
/-! PROOFS. NOP (spec/40_config_access.md R100) and the access of registers (R101, R102): a register
number names at most one register (10_state.md R25, R38), so both tables of numbers are the registers'
own numbers, in order. -/

namespace Sys2Proof.Machine

open Sys2Proof.Statements

/-! ### The numbers of the registers (R25, R38) -/

/-- The number of a configuration register (R25). -/
def configRegNumber : ConfigReg → BitVec 8
  | .clVcoSize => 0x00#8
  | .clArmLen => 0x01#8
  | .clAlpha => 0x02#8
  | .clCpi => 0x03#8
  | .clMiAcq => 0x04#8
  | .clMiTrk => 0x05#8
  | .clNtrack => 0x06#8
  | .clFbMode => 0x07#8
  | .elSymLen => 0x10#8
  | .elMfShape => 0x11#8
  | .elEgLen => 0x12#8
  | .elTlLen => 0x13#8
  | .elThr => 0x14#8
  | .elTmode => 0x15#8
  | .sdLen => 0x20#8
  | .ddM => 0x30#8
  | .ddMagThr => 0x31#8
  | .dmElgSrc => 0x38#8

/-- The number of a status register (R38). -/
def statusRegNumber : StatusReg → BitVec 8
  | .status => 0x40#8
  | .lastErr => 0x41#8
  | .clPh => 0x42#8
  | .clLf => 0x43#8
  | .clFb => 0x44#8
  | .clAixI => 0x45#8
  | .clAixQ => 0x46#8
  | .elMfIx => 0x50#8
  | .elMfSum => 0x51#8
  | .elEgIx => 0x52#8
  | .elTlIx => 0x53#8
  | .elZcPrev => 0x54#8
  | .elFlags => 0x55#8
  | .elTrigCnt => 0x56#8
  | .elTrigLat => 0x57#8
  | .sdIx0 => 0x60#8
  | .sdIx1 => 0x61#8
  | .ddPrev => 0x70#8
  | .ddDecCnt => 0x71#8
  | .resIq => 0x78#8
  | .resDiq => 0x79#8
  | .resDec => 0x7A#8

/-- The configuration registers in the order of R25. -/
def allConfigRegs : List ConfigReg :=
  [.clVcoSize, .clArmLen, .clAlpha, .clCpi, .clMiAcq, .clMiTrk, .clNtrack, .clFbMode, .elSymLen,
    .elMfShape, .elEgLen, .elTlLen, .elThr, .elTmode, .sdLen, .ddM, .ddMagThr, .dmElgSrc]

/-- The status registers in the order of R38. -/
def allStatusRegs : List StatusReg :=
  [.status, .lastErr, .clPh, .clLf, .clFb, .clAixI, .clAixQ, .elMfIx, .elMfSum, .elEgIx, .elTlIx,
    .elZcPrev, .elFlags, .elTrigCnt, .elTrigLat, .sdIx0, .sdIx1, .ddPrev, .ddDecCnt, .resIq, .resDiq,
    .resDec]

theorem mem_allConfigRegs (r : ConfigReg) : r ∈ allConfigRegs := by cases r <;> decide

theorem mem_allStatusRegs (r : StatusReg) : r ∈ allStatusRegs := by cases r <;> decide

theorem configRegOf_eq_some_iff {n : BitVec 8} {r : ConfigReg} :
    configRegOf n = some r ↔ n = configRegNumber r := by
  constructor
  · intro h
    unfold configRegOf at h
    split at h <;> cases h <;> rfl
  · rintro rfl
    cases r <;> rfl

theorem statusRegOf_eq_some_iff {n : BitVec 8} {r : StatusReg} :
    statusRegOf n = some r ↔ n = statusRegNumber r := by
  constructor
  · intro h
    unfold statusRegOf at h
    split at h <;> cases h <;> rfl
  · rintro rfl
    cases r <;> rfl

theorem configRegNumber_inj {r r' : ConfigReg} :
    (configRegNumber r).toNat = (configRegNumber r').toNat ↔ r = r' := by
  refine ⟨fun h => ?_, fun h => by rw [h]⟩
  have hr : configRegOf (configRegNumber r') = some r :=
    configRegOf_eq_some_iff.2 (BitVec.eq_of_toNat_eq h.symm)
  exact Option.some.inj (hr.symm.trans (configRegOf_eq_some_iff.2 rfl))

/-- No number names a register of both kinds. -/
theorem configRegOf_statusRegNumber (r : StatusReg) : configRegOf (statusRegNumber r) = none := by
  cases r <;> rfl

/-! ### The statements' tables of registers, as maps over the registers -/

theorem configNumbers_eq_map :
    configNumbers = allConfigRegs.map fun r => (configRegNumber r).toNat := rfl

theorem configValues_eq_map (s : State) :
    configValues s = allConfigRegs.map fun r => ((configRegNumber r).toNat, cfgRead s.cfg r) := rfl

theorem statusValues_eq_map (s : State) :
    statusValues s = allStatusRegs.map fun r => ((statusRegNumber r).toNat, statusRead s r) := by
  simp only [statusValues, allStatusRegs, List.map, statusRead, statusWord_eq, elFlagsWord_eq,
    setWidth_eq_ofNat, Nat.reduceLeDiff]
  rfl

theorem mem_configNumbers_iff {n : BitVec 8} :
    n.toNat ∈ configNumbers ↔ ∃ r, configRegOf n = some r := by
  simp [configNumbers_eq_map, mem_allConfigRegs, configRegOf_eq_some_iff, BitVec.toNat_inj,
    eq_comm (a := n)]

theorem mem_configValues_iff {s : State} {n : BitVec 8} {v : Reg} :
    (n.toNat, v) ∈ configValues s ↔ ∃ r, configRegOf n = some r ∧ cfgRead s.cfg r = v := by
  simp [configValues_eq_map, mem_allConfigRegs, configRegOf_eq_some_iff, BitVec.toNat_inj,
    eq_comm (a := n)]

theorem mem_statusValues_iff {s : State} {n : BitVec 8} {v : Reg} :
    (n.toNat, v) ∈ statusValues s ↔ ∃ r, statusRegOf n = some r ∧ statusRead s r = v := by
  simp [statusValues_eq_map, mem_allStatusRegs, statusRegOf_eq_some_iff, BitVec.toNat_inj,
    eq_comm (a := n)]

/-- R102: the registers RDREG reads are those of R25 and R38. -/
theorem regRead_eq_some_iff {s : State} {n : BitVec 8} {v : Reg} :
    regRead s n = some v ↔ (n.toNat, v) ∈ configValues s ++ statusValues s := by
  rw [List.mem_append, mem_configValues_iff, mem_statusValues_iff]
  cases hc : configRegOf n with
  | some r =>
    have hs (q : StatusReg) : statusRegOf n ≠ some q := by
      intro hq
      rw [statusRegOf_eq_some_iff.1 hq, configRegOf_statusRegNumber] at hc
      cases hc
    simp [regRead, hc, hs]
  | none => cases hs : statusRegOf n <;> simp [regRead, hc, hs]

/-! ### Writing a configuration register (R24, R26) -/

theorem cfgRead_cfgWrite_self (c : ConfigRegs) (r : ConfigReg) (v : Reg) :
    cfgRead (cfgWrite c r v) r = v := by
  cases r <;> rfl

theorem configValues_cfgWrite {s u : State} {r : ConfigReg} {v : Reg}
    (hu : u.cfg = cfgWrite s.cfg r v) :
    configValues u =
      (configValues s).map fun p => (p.1, if p.1 = (configRegNumber r).toNat then v else p.2) := by
  rw [configValues_eq_map, configValues_eq_map, List.map_map, hu]
  refine List.map_congr_left fun r' _ => ?_
  simp only [Function.comp_apply, configRegNumber_inj]
  split
  · next h => rw [h, cfgRead_cfgWrite_self]
  · next h => rw [cfgRead_cfgWrite_ne _ _ h]

/-- R26: the flag cleared is the owner's, and the clear is unconditional. -/
theorem clearReady_eq (v : UnitId) (s : State) :
    clearReady v s = { s with
      clRdy := s.clRdy && !decide (v = .cl)
      elRdy := s.elRdy && !decide (v = .el)
      sdRdy := s.sdRdy && !decide (v = .sd)
      ddRdy := s.ddRdy && !decide (v = .dd) } := by
  cases v <;> simp [clearReady]

/-- R25: each unit owns a range of numbers. -/
theorem ownerOf_ranges (r : ConfigReg) :
    (ownerOf r = .cl ↔ (configRegNumber r).toNat ≤ 0x07)
      ∧ (ownerOf r = .el ↔ 0x10 ≤ (configRegNumber r).toNat ∧ (configRegNumber r).toNat ≤ 0x15)
      ∧ (ownerOf r = .sd ↔ (configRegNumber r).toNat = 0x20)
      ∧ (ownerOf r = .dd ↔ 0x30 ≤ (configRegNumber r).toNat ∧ (configRegNumber r).toNat ≤ 0x31) := by
  cases r <;> decide

/-! ### WRREG and RDREG, by what the number names -/

section

variable {n : BitVec 8} {v : Reg} {s : State}

theorem execWrreg_of_register {r : ConfigReg} (h : configRegOf n = some r) :
    exec (.wrreg n v) s =
      respond {} (clearReady (ownerOf r) { s with cfg := cfgWrite s.cfg r v }) := by
  simp [exec, execWrreg, h]

theorem execWrreg_of_unimplemented (h : configRegOf n = none) :
    exec (.wrreg n v) s = .next (failed s 0x01 5 0 1) := by
  simp only [exec, execWrreg, h]
  exact raise_eq_failed _ _ _ _ _

theorem execRdreg_of_register (h : regRead s n = some v) :
    exec (.rdreg n) s = .next (replied s (dataWord v.toNat)) := by
  simp only [exec, execRdreg, h]
  exact respond_data_eq_replied v s

theorem execRdreg_of_unimplemented (h : regRead s n = none) :
    exec (.rdreg n) s = .next (failed s 0x02 5 0 1) := by
  simp only [exec, execRdreg, h]
  exact raise_eq_failed _ _ _ _ _

end

/-- R84: no other command has opcode 0x00. -/
theorem eq_nop_of_opcode_zero {i : Instr} (h : opcode i = 0x00#8) : i = .nop := by
  cases i with
  | nop => rfl
  | _ => cases h

end Sys2Proof.Machine

namespace Sys2Proof.Proofs

open Sys2Proof.Machine Sys2Proof.Statements

/-- Settles O28: a number in R25's table names one register, whose owner is the unit of its range. -/
theorem wrregWritesOrRaises : Obligations.WrregWritesOrRaises := by
  intro n v s
  refine ⟨?_, fun hn => ?_, fun hn => ?_⟩
  · rw [encode_eq_ofNat, encodeA, BitVec.toNat_setWidth_of_le (by decide)]
    rfl
  · obtain ⟨r, hr⟩ := mem_configNumbers_iff.1 hn
    obtain rfl := configRegOf_eq_some_iff.1 hr
    obtain ⟨hcl, hel, hsd, hdd⟩ := ownerOf_ranges r
    refine ⟨_, execWrreg_of_register hr, configValues_cfgWrite (by simp), ?_⟩
    simp only [clearReady_eq, hcl, hel, hsd, hdd]
    rfl
  · exact execWrreg_of_unimplemented
      (Option.eq_none_iff_forall_ne_some.2 fun r hr => hn (mem_configNumbers_iff.2 ⟨r, hr⟩))

/-- Settles O29: `regRead` answers for the numbers of the two tables and no other. -/
theorem rdregAnswersOrRaises : Obligations.RdregAnswersOrRaises := by
  intro n s
  refine ⟨?_, fun v hv => execRdreg_of_register (regRead_eq_some_iff.2 hv), fun hn => ?_⟩
  · rw [encode_eq_ofNat, encodeA, BitVec.toNat_setWidth_of_le (by decide)]
    rfl
  · exact execRdreg_of_unimplemented (Option.eq_none_iff_forall_ne_some.2 fun v hv =>
      hn (List.mem_map_of_mem (regRead_eq_some_iff.1 hv)))

/-- Settles O27: a decoded word is its command's encoding, and NOP is the one command with opcode 0. -/
theorem nopOnlyAnswersZero : Obligations.NopOnlyAnswersZero := by
  refine ⟨rfl, fun w htop hw => ?_, fun s => respond_nil_eq_replied s⟩
  cases h : decode w with
  | error e => exact ⟨e, rfl⟩
  | ok i =>
    have hi := encode_of_decode h
    have hop : opcode i = 0x00#8 := by
      rw [← fieldOp_encode, hi]
      exact BitVec.eq_of_toNat_eq ((fieldOp_toNat w).trans htop)
    rw [eq_nop_of_opcode_zero hop] at hi
    exact absurd hi.symm hw

end Sys2Proof.Proofs
end

section
/-! PROOFS. The access of tables (spec/40_config_access.md R103, R104): a selector names at most one
table (20_memory.md R61), and one host write changes one entry of one table. -/

namespace Sys2Proof.Machine

open Sys2Proof.Statements

/-! ### The selectors of the tables (R61) -/

/-- The selector of a table (R61). -/
def tableSelector : TableId → BitVec 8
  | .vcot => 0#8
  | .armc => 1#8
  | .mfc => 2#8
  | .tlc => 3#8
  | .const => 4#8
  | .delta => 5#8
  | .armi => 8#8
  | .armq => 9#8
  | .mfb => 10#8
  | .egb => 11#8
  | .tlb => 12#8
  | .sdb0 => 13#8
  | .sdb1 => 14#8

/-- The tables in the order of R61. -/
def allTables : List TableId :=
  [.vcot, .armc, .mfc, .tlc, .const, .delta, .armi, .armq, .mfb, .egb, .tlb, .sdb0, .sdb1]

theorem mem_allTables (t : TableId) : t ∈ allTables := by cases t <;> decide

theorem tableOf_eq_some_iff {sel : BitVec 8} {t : TableId} :
    tableOf sel = some t ↔ sel = tableSelector t := by
  constructor
  · intro h
    unfold tableOf at h
    split at h <;> cases h <;> rfl
  · rintro rfl
    cases t <;> rfl

theorem tableMap_eq_map :
    tableMap = allTables.map fun t => ((tableSelector t).toNat, t, capacity t) := rfl

theorem mem_tableMap_iff {sel : BitVec 8} {t : TableId} {cap : Nat} :
    (sel.toNat, t, cap) ∈ tableMap ↔ tableOf sel = some t ∧ capacity t = cap := by
  simp [tableMap_eq_map, mem_allTables, tableOf_eq_some_iff, BitVec.toNat_inj, eq_comm (a := sel)]

theorem mem_tableMap_selectors_iff {sel : BitVec 8} :
    sel.toNat ∈ tableMap.map Prod.fst ↔ ∃ t, tableOf sel = some t := by
  simp [tableMap_eq_map, mem_allTables, tableOf_eq_some_iff, BitVec.toNat_inj, eq_comm (a := sel)]

/-- R61, R65: the host writes the tables with selectors 0 to 5. -/
theorem hostWritable_iff (t : TableId) : hostWritable t = true ↔ (tableSelector t).toNat ≤ 5 := by
  cases t <;> decide

/-! ### Writing one entry (R62, R103) -/

section

variable {s : State} {t t' : TableId}

theorem entryWrite_frame (s : State) (t : TableId) (i : Nat) (d : Reg) :
    entryWrite s t i d = { s with host := (entryWrite s t i d).host } := by
  cases t <;> rfl

theorem entryRead_entryWrite_ne (i k : Nat) (d : Reg) (h : t' ≠ t) :
    entryRead (entryWrite s t i d) t' k = entryRead s t' k := by
  cases t <;> cases t' <;> simp [entryRead, entryWrite] at h ⊢

theorem entryRead_entryWrite_self (i k : Nat) (d : Reg) (h : hostWritable t = true) :
    entryRead (entryWrite s t i d) t k = if k = i then storedDatum t d else entryRead s t k := by
  cases t with
  | vcot | armc | mfc | tlc =>
    simp only [entryRead, entryWrite, tabGet_tabSet, apply_ite (BitVec.signExtend 32)]
    rfl
  | const => simp only [entryRead, entryWrite, tabGet_tabSet, hi16_append_lo16]; rfl
  | delta =>
    have hd : (d.setWidth 8).setWidth 32 = storedDatum .delta d :=
      (setWidth_eq_ofNat _ (by decide)).trans (by rw [BitVec.toNat_setWidth]; rfl)
    simp only [entryRead, entryWrite, tabGet_tabSet, apply_ite (BitVec.setWidth 32), hd]
  | armi | armq | mfb | egb | tlb | sdb0 | sdb1 => cases h

/-- A host write changes what is read at its own table and index, and nowhere else. -/
theorem entryRead_entryWrite (i k : Nat) (d : Reg) (h : hostWritable t = true) :
    entryRead (entryWrite s t i d) t' k =
      if t' = t ∧ k = i then storedDatum t d else entryRead s t' k := by
  by_cases ht : t' = t
  · subst ht
    simp [entryRead_entryWrite_self i k d h]
  · simp [ht, entryRead_entryWrite_ne i k d ht]

theorem entryRead_send (r : Response) (k : Nat) : entryRead (send r s) t k = entryRead s t k := by
  cases t <;> rfl

end

/-! ### WRTAB and RDTAB, by what the selector names -/

section

variable {sel : BitVec 8} {idx : BitVec 16} {v : Reg} {s : State} {t : TableId}

theorem execWrtab_inside (h : tableOf sel = some t) (hw : hostWritable t = true)
    (hi : idx.toNat < capacity t) :
    exec (.wrtab sel idx v) s = respond {} (entryWrite s t idx.toNat v) := by
  simp [exec, execWrtab, h, hw, hi]

theorem execWrtab_outside (h : tableOf sel = some t) (hw : hostWritable t = true)
    (hi : capacity t ≤ idx.toNat) :
    exec (.wrtab sel idx v) s = .next (failed s 0x03 5 0 3) := by
  simp only [exec, execWrtab, h, hw, if_true, if_neg (Nat.not_lt.2 hi)]
  exact raise_eq_failed _ _ _ _ _

/-- R103, R215: the selector is checked first, so the index does not matter. -/
theorem execWrtab_not_writable (h : ∀ t, tableOf sel = some t → hostWritable t = false) :
    exec (.wrtab sel idx v) s = .next (failed s 0x03 5 0 2) := by
  refine Eq.trans ?_ (raise_eq_failed (opcode (.wrtab sel idx v)) .addrError .noUnit 2#8 s)
  cases ht : tableOf sel with
  | none => simp only [exec, execWrtab, ht]
  | some t => simp [exec, execWrtab, ht, h t ht]

theorem execRdtab_of_table (h : tableOf sel = some t) :
    exec (.rdtab sel idx) s =
      if idx.toNat < capacity t then .next (replied s (dataWord (entryRead s t idx.toNat).toNat))
      else .next (failed s 0x04 5 0 3) := by
  simp only [exec, execRdtab, h, respond_data_eq_replied, raise_eq_failed]
  rfl

theorem execRdtab_of_unimplemented (h : tableOf sel = none) :
    exec (.rdtab sel idx) s = .next (failed s 0x04 5 0 2) := by
  simp only [exec, execRdtab, h]
  exact raise_eq_failed _ _ _ _ _

end

end Sys2Proof.Machine

namespace Sys2Proof.Proofs

open Sys2Proof.Machine Sys2Proof.Statements

/-- Settles O30: the table a selector of 0 to 5 names is writable, and `entryRead_entryWrite` says what
the write changes. -/
theorem wrtabStoresOneEntryOrRaises : Obligations.WrtabStoresOneEntryOrRaises := by
  intro sel idx v s
  have writable {t : TableId} (ht : tableOf sel = some t) :
      hostWritable t = true ↔ sel.toNat ≤ 5 := by
    rw [hostWritable_iff, ← tableOf_eq_some_iff.1 ht]
  refine ⟨encode_eq_ofNat _, fun id cap hm hsel hi => ?_, fun hsel => ?_, fun id cap hm hsel hi => ?_⟩
  · obtain ⟨ht, rfl⟩ := mem_tableMap_iff.1 hm
    have hw := (writable ht).2 hsel
    refine ⟨_, execWrtab_inside ht hw hi, fun p _ k => ?_, ?_⟩
    · rw [entryPattern_eq_entryRead, entryPattern_eq_entryRead, entryRead_send,
        entryRead_entryWrite _ _ _ hw]
    · rw [entryWrite_frame]
      rfl
  · exact execWrtab_not_writable fun t ht =>
      Bool.eq_false_iff.2 fun hw => Nat.not_le.2 hsel ((writable ht).1 hw)
  · obtain ⟨ht, rfl⟩ := mem_tableMap_iff.1 hm
    exact execWrtab_outside ht ((writable ht).2 hsel) hi

/-- Settles O31: a selector is in the map of R61 exactly when it names a table. -/
theorem rdtabAnswersOrRaises : Obligations.RdtabAnswersOrRaises := by
  intro sel idx s
  refine ⟨encode_eq_ofNat _, fun id cap hm => ?_, fun hsel => ?_⟩
  · obtain ⟨ht, rfl⟩ := mem_tableMap_iff.1 hm
    rw [entryPattern_eq_entryRead]
    exact execRdtab_of_table ht
  · exact execRdtab_of_unimplemented
      (Option.eq_none_iff_forall_ne_some.2 fun t ht => hsel (mem_tableMap_selectors_iff.2 ⟨t, ht⟩))

end Sys2Proof.Proofs
end

section
/-! PROOFS. The Costas loop (spec/41_costas.md): the stages of one CL.STEP (R113 to R120), each said once
as a formula over integers, the ranges R113, R114 and R117 name, the checks of CL.INIT (R110), and the
clears and RESET commands of the four units. -/

namespace Sys2Proof.Machine

open Sys2Proof.Statements

/-! ### Stage (a): the index into VCOT (R113) -/

/-- A phase is less than one turn, so it points into the table. -/
theorem vidx_lt {n : Nat} (hn : 0 < n) (p : BitVec 32) : vidx n p < n :=
  Nat.div_lt_of_lt_mul (Nat.mul_lt_mul_of_pos_right p.isLt hn)

theorem vidx_quarterTurn (n : Nat) (p : BitVec 32) :
    vidx n (p + 0x40000000#32) = (p.toNat + 0x40000000) % 2 ^ 32 * n / 2 ^ 32 := by
  unfold vidx
  rw [BitVec.toNat_add]
  rfl

theorem ncoRefs_snd (c : ConfigRegs) (vcot : Table 16) (ph : BitVec 32) :
    (ncoRefs c vcot ph).2 =
      (tabGet vcot ((ph.toNat + 0x40000000) % 2 ^ 32 * c.clVcoSize.toNat / 2 ^ 32)).toInt := by
  rw [← vidx_quarterTurn]
  rfl

/-! ### Stage (b): the mixers (R114) -/

theorem mix_range (x ref : Int) : -32768 ≤ mix x ref ∧ mix x ref ≤ 32767 := sat_range 16 _

theorem mix_eq_clamp (x ref : Int) : mix x ref = clamp (-32768) 32767 (x * ref / 32768) :=
  sat16_eq_clamp _

/-- The mixer does not saturate when the product of its operands is below 1.0. -/
theorem mix_of_abs_le {x ref : Int} (h : |x * ref| ≤ 32767 * 32768) :
    mix x ref = x * ref / 32768 := by
  obtain ⟨hlo, hhi⟩ := abs_le.1 h
  rw [mix_eq_clamp]
  unfold clamp
  omega

theorem toInt_abs_lt {v : Sample} (h : v.toInt ≠ -32768) : |v.toInt| ≤ 32767 := by
  have hv := sampleOf_range v
  unfold sampleOf at hv
  exact abs_le.2 ⟨by omega, hv.2⟩

/-- One factor above -1.0 keeps the product below 1.0. -/
theorem sample_product_abs_le {x ref : Sample} (h : ¬ (x.toInt = -32768 ∧ ref.toInt = -32768)) :
    |x.toInt * ref.toInt| ≤ 32767 * 32768 := by
  rw [abs_mul]
  by_cases hx : x.toInt = -32768
  · have hr : ref.toInt ≠ -32768 := fun hr => h ⟨hx, hr⟩
    rw [mul_comm]
    exact mul_le_mul (toInt_abs_lt hr) (toInt_abs_le x) (abs_nonneg _) (by norm_num)
  · exact mul_le_mul (toInt_abs_lt hx) (toInt_abs_le ref) (abs_nonneg _) (by norm_num)

/-! ### Stage (c): the arm filters (R115) -/

/-- A 16-bit value written to an arm's line is read back at its index. -/
theorem tabGet_armWrite {m : Int} (line : Table 16) (ix k : Nat) (hm : -32768 ≤ m ∧ m ≤ 32767) :
    (tabGet (armWrite line ix m) k).toInt = if k = ix then m else (tabGet line k).toInt := by
  unfold armWrite
  rw [tabGet_tabSet, apply_ite BitVec.toInt, ofInt16_toInt hm.1 hm.2]

/-- An arm's output after the write of `m`: tap 0 takes `m`, the others the line as it was. -/
theorem armOutput_armWrite {len ix : Nat} {m : Int} (coef line : Table 16) (hix : ix < len)
    (hm : -32768 ≤ m ∧ m ≤ 32767) :
    armOutput len coef (armWrite line ix m) ix =
      clamp (-32768) 32767
        (firOf len (fun k => (tabGet coef k).toInt) (fun k => (tabGet line k).toInt) ix m
          / 32768) := by
  unfold armOutput armWrite
  rw [sat16_eq_clamp, firSum_after_write _ _ _ hix, ofInt16_toInt hm.1 hm.2, sumTo_eq_sum,
    firOf_eq_sumTo]
  rfl

/-! ### Stage (d): the phase-error detector (R117) -/

theorem phaseError_eq_sign (mode : Nat) (i q : Int) :
    phaseError mode i q =
      if mode = 0 then i.sign * q
      else if mode = 1 then i.sign * q.sign * 32768
      else i.sign * q - q.sign * i := by
  simp only [phaseError, sgn_eq_sign]

theorem sgn_spec (v : Int) :
    (0 < v ∧ sgn v = 1) ∨ (v = 0 ∧ sgn v = 0) ∨ (v < 0 ∧ sgn v = -1) := by
  unfold sgn
  split_ifs <;> omega

section

variable {i q : Int}

/-- Mode 0: the Q arm's output, its sign perhaps turned. -/
theorem phaseError_zero_within (i : Int) (hq : -32768 ≤ q ∧ q ≤ 32767) :
    within 32768 (phaseError 0 i q) := by
  show within 32768 (sgn i * q)
  obtain h | h | h := sgn_cases i <;>
    · rw [h]
      omega

/-- Mode 1: the product of the two signs, as -1.0, 0 or 1.0. -/
theorem phaseError_one_cases (i q : Int) :
    phaseError 1 i q = -32768 ∨ phaseError 1 i q = 0 ∨ phaseError 1 i q = 32768 := by
  show sgn i * sgn q * 32768 = -32768 ∨ sgn i * sgn q * 32768 = 0 ∨ sgn i * sgn q * 32768 = 32768
  obtain hi | hi | hi := sgn_cases i <;> obtain hq | hq | hq := sgn_cases q <;>
    · rw [hi, hq]
      omega

/-- Mode 2: the two terms never have the same sign, so their sum is no larger than one of them. -/
theorem phaseError_two_within (hi : -32768 ≤ i ∧ i ≤ 32767) (hq : -32768 ≤ q ∧ q ≤ 32767) :
    within 65535 (phaseError 2 i q) := by
  show within 65535 (sgn i * q - sgn q * i)
  obtain ⟨_, hsi⟩ | ⟨_, hsi⟩ | ⟨_, hsi⟩ := sgn_spec i <;>
    obtain ⟨_, hsq⟩ | ⟨_, hsq⟩ | ⟨_, hsq⟩ := sgn_spec q <;>
    · rw [hsi, hsq]
      omega

end

/-! ### Stages (e) and (f): the loop filter and the phase integrator (R118, R120) -/

theorem loopFilter_eq_clamp (alpha : Nat) (lf ev : Int) :
    loopFilter alpha lf ev =
      clamp (-2147483648) 2147483647 (2 * ev + (alpha : Int) * lf / 65536) :=
  sat32_eq_clamp _

theorem loopFilter_toInt (alpha : Nat) (lf ev : Int) :
    (BitVec.ofInt 32 (loopFilter alpha lf ev)).toInt = loopFilter alpha lf ev := by
  obtain ⟨hlo, hhi⟩ := sat_range 32 (2 * ev + asr ((alpha : Int) * lf) 16)
  exact ofInt_toInt_of_range (by norm_num) hlo hhi

theorem ncoAdvance_toNat (ph cpi : BitVec 32) (mi lf : Int) :
    ((ncoAdvance ph cpi mi lf).toNat : Int) =
      ((ph.toNat : Int) + (cpi.toNat : Int) + mi * lf / 65536) % 2 ^ 32 := by
  unfold ncoAdvance
  rw [BitVec.toNat_ofInt, Int.toNat_of_nonneg (Int.emod_nonneg _ (by norm_num))]
  rfl

/-! ### Stage (g): the pair (I, Q) (R112) -/

theorem hi16_pair16 {p : Int} (q : Int) (hp : -32768 ≤ p ∧ p ≤ 32767) :
    (hi16 (pair16 p q)).toInt = p := by
  unfold pair16
  rw [hi16_append, ofInt16_toInt hp.1 hp.2]

theorem lo16_pair16 (p : Int) {q : Int} (hq : -32768 ≤ q ∧ q ≤ 32767) :
    (lo16 (pair16 p q)).toInt = q := by
  unfold pair16
  rw [lo16_append, ofInt16_toInt hq.1 hq.2]

/-! ### What one step of CL leaves (R112) -/

section

variable {s : State}

theorem clOut_i (hs : clSound s) (x : Int) :
    (clOut s x).i =
      clamp (-32768) 32767
        (firOf s.cfg.clArmLen.toNat (fun k => (tabGet s.host.armc k).toInt)
          (fun k => (tabGet s.cl.armi k).toInt) s.cl.aixI.toNat
          (mix x (ncoRefs s.cfg s.host.vcot s.cl.ph).1) / 32768) := by
  obtain ⟨-, -, hix⟩ := hs
  exact armOutput_armWrite _ _ hix (mix_range _ _)

/-- R39 (b): the index of the Q arm is the I arm's. -/
theorem clOut_q (hs : clSound s) (x : Int) :
    (clOut s x).q =
      clamp (-32768) 32767
        (firOf s.cfg.clArmLen.toNat (fun k => (tabGet s.host.armc k).toInt)
          (fun k => (tabGet s.cl.armq k).toInt) s.cl.aixI.toNat
          (mix x (ncoRefs s.cfg s.host.vcot s.cl.ph).2) / 32768) := by
  obtain ⟨-, heq, hix⟩ := hs
  rw [heq] at hix ⊢
  exact armOutput_armWrite _ _ hix (mix_range _ _)

/-- The store of CL_FB is lossless. -/
theorem clOut_fb_toInt (s : State) (x : Int) :
    (clOut s x).cl.fb.toInt =
      phaseError s.cfg.clFbMode.toNat (clOut s x).i (clOut s x).q := by
  obtain ⟨hlo, hhi⟩ := phaseError_range (mode := s.cfg.clFbMode.toNat) (clOut_i_range s x)
    (clOut_q_range s x)
  rw [clOut_fb, ofInt32_toInt (by linarith) (by linarith)]

/-- R118 reads the detector's output as it has just been stored in CL_FB. -/
theorem clOut_lf_toInt (s : State) (x : Int) :
    (clOut s x).cl.lf.toInt =
      loopFilter s.cfg.clAlpha.toNat s.cl.lf.toInt (clOut s x).cl.fb.toInt := by
  rw [clOut_fb_toInt]
  exact loopFilter_toInt _ _ _

/-- R120 reads CL_LF as R118 has just written it. -/
theorem clOut_ph_toNat (s : State) (x : Int) :
    ((clOut s x).cl.ph.toNat : Int) =
      ((s.cl.ph.toNat : Int) + (s.cfg.clCpi.toNat : Int)
        + modIndex s.cfg (trk s) * (clOut s x).cl.lf.toInt / 65536) % 2 ^ 32 := by
  rw [clOut_lf_toInt, clOut_fb_toInt]
  exact ncoAdvance_toNat _ _ _ _

/-- R39 (b), R115: both indices advance together, modulo a length their registers hold. -/
theorem clOut_aix_toNat (hs : clSound s) (x : Int) :
    (clOut s x).cl.aixI.toNat = (s.cl.aixI.toNat + 1) % s.cfg.clArmLen.toNat
      ∧ (clOut s x).cl.aixQ.toNat = (s.cl.aixI.toNat + 1) % s.cfg.clArmLen.toNat := by
  obtain ⟨⟨-, -, hodd, hcap, -⟩, heq, -⟩ := hs
  have hpos : 0 < s.cfg.clArmLen.toNat := by omega
  have hfits : s.cfg.clArmLen.toNat ≤ 2 ^ 8 := le_trans hcap (by decide)
  exact ⟨wrapIndex_toNat hpos hfits, heq ▸ wrapIndex_toNat hpos hfits⟩

theorem clOut_armi (s : State) (x : Int) (k : Nat) :
    (tabGet (clOut s x).cl.armi k).toInt =
      if k = s.cl.aixI.toNat then mix x (ncoRefs s.cfg s.host.vcot s.cl.ph).1
      else (tabGet s.cl.armi k).toInt :=
  tabGet_armWrite _ _ _ (mix_range _ _)

theorem clOut_armq (hs : clSound s) (x : Int) (k : Nat) :
    (tabGet (clOut s x).cl.armq k).toInt =
      if k = s.cl.aixI.toNat then mix x (ncoRefs s.cfg s.host.vcot s.cl.ph).2
      else (tabGet s.cl.armq k).toInt := by
  obtain ⟨-, heq, -⟩ := hs
  rw [heq]
  exact tabGet_armWrite _ _ _ (mix_range _ _)

end

/-! ### CL.INIT (R110) -/

/-- What CL.INIT leaves, by the outcome of its checks. -/
def clInitResult (s : State) : Option (ErrorCode × BitVec 8) → State
  | some (e, check) =>
    failed { s with clRdy := false } (opcode .clInit).toNat e.code.toNat UnitId.cl.num.toNat
      check.toNat
  | none => replied { s with clRdy := true, cl := ClState.zero } (dataWord 0)

theorem exec_clInit (s : State) : exec .clInit s = .next (clInitResult s (clInitCheck s.cfg)) := by
  show execClInit s = _
  unfold execClInit
  cases clInitCheck s.cfg with
  | none => exact respond_nil_eq_replied _
  | some f => exact raise_eq_failed _ _ _ _ _

end Sys2Proof.Machine

namespace Sys2Proof.Proofs

open Sys2Proof.Machine Sys2Proof.Statements

/-- Settles O39: each stage of the step is one of the lemmas above, and the values of the earlier
stages are carried into the later ones in the order of R112. -/
theorem clStepComputesTheLoop : Obligations.ClStepComputesTheLoop := by
  intro s x hr hs n len ix cref qref mi mq coef i q ev lf tracking mod
  have hmi : mix (sampleOf x) (ncoRefs s.cfg s.host.vcot s.cl.ph).1 = mi := mix_eq_clamp _ _
  have hmq : mix (sampleOf x) (ncoRefs s.cfg s.host.vcot s.cl.ph).2 = mq := by
    rw [ncoRefs_snd]
    exact mix_eq_clamp _ _
  have hi : (clOut s (sampleOf x)).i = i := by rw [clOut_i hs, hmi]
  have hq : (clOut s (sampleOf x)).q = q := by rw [clOut_q hs, hmq]
  have hfb : (clOut s (sampleOf x)).cl.fb.toInt = ev := by
    rw [clOut_fb_toInt, hi, hq, phaseError_eq_sign]
  have hlf : (clOut s (sampleOf x)).cl.lf.toInt = lf := by
    rw [clOut_lf_toInt, hfb, loopFilter_eq_clamp]
  obtain ⟨haixI, haixQ⟩ := clOut_aix_toNat hs (sampleOf x)
  refine ⟨_, (execClStep_ready x hr hs).trans (respond_eq_replied _ _ rfl), hfb, hlf, ?_,
    haixI, haixQ, fun k => ?_, fun k => ?_, ?_, ?_, rfl⟩
  · exact (clOut_ph_toNat s _).trans (by rw [hlf]; rfl)
  · exact (clOut_armi s _ k).trans (by rw [hmi])
  · exact (clOut_armq hs _ k).trans (by rw [hmq])
  · exact (hi16_pair16 _ (clOut_i_range s _)).trans hi
  · exact (lo16_pair16 _ (clOut_q_range s _)).trans hq

/-- Settles O40: both indices are `vidx` of a 32-bit phase. -/
theorem ncoIndexIsInsideTheTable : Obligations.NcoIndexIsInsideTheTable :=
  fun _ p hn => ⟨vidx_lt hn p, vidx_lt hn (p + 0x40000000#32)⟩

/-- Settles O41: the product of two samples reaches 1.0 only when both are -1.0. -/
theorem mixerSaturatesInOneCase : Obligations.MixerSaturatesInOneCase := by
  intro x ref
  split
  · next h =>
    obtain ⟨hx, href⟩ := h
    rw [hx, href]
    decide
  · next h => exact mix_of_abs_le (sample_product_abs_le h)

/-- Settles O42: mode by mode, from the signs of the two arm outputs. -/
theorem phaseErrorRanges : Obligations.PhaseErrorRanges := fun i q =>
  ⟨phaseError_zero_within _ (sampleOf_range q), phaseError_one_cases _ _,
    phaseError_two_within (sampleOf_range i) (sampleOf_range q)⟩

/-- Settles O32: an empty table reads 0 everywhere, and a clear writes its own unit's field alone. -/
theorem clearedUnitsAreAllZero : Obligations.ClearedUnitsAreAllZero := by
  intro s
  refine ⟨⟨rfl, rfl, rfl, rfl, rfl, fun k => ?_, rfl⟩,
    ⟨rfl, rfl, rfl, rfl, rfl, rfl, rfl, rfl, rfl, fun k => ?_, rfl⟩,
    ⟨rfl, rfl, fun k => ?_, rfl⟩, rfl, rfl, rfl⟩
  · exact ⟨tabGet_nil k, tabGet_nil k⟩
  · exact ⟨tabGet_nil k, tabGet_nil k, tabGet_nil k⟩
  · exact ⟨tabGet_nil k, tabGet_nil k⟩

/-- Settles O33: the outcome of the checks, carried through their chain. -/
theorem clInitChecksInOrder : Obligations.ClInitChecksInOrder := by
  refine ⟨rfl, fun s => ?_⟩
  rw [exec_clInit]
  simp only [clInitCheck, apply_ite (clInitResult s)]
  rfl

/-- Settles O37: a RESET is its unit's clear and the response 0. -/
theorem unitResetsClearTheirUnit : Obligations.UnitResetsClearTheirUnit :=
  ⟨⟨rfl, rfl, rfl, rfl⟩, fun s =>
    ⟨respond_nil_eq_replied (clClear s), respond_nil_eq_replied (elClear s),
      respond_nil_eq_replied (sdClear s), respond_nil_eq_replied (ddClear s)⟩⟩

end Sys2Proof.Proofs
end

section
/-! PROOFS. The early-late gate (spec/42_elg.md): the checks and the latency of EL.INIT (R130, R131), the
stages of one EL.STEP (R135 to R141), each said once as a formula over integers, and the reverberator
(R141) over any number of steps, alone and under every sequence of crossings. -/

namespace Sys2Proof.Machine

open Sys2Proof.Statements

/-! ### EL.INIT (R130) and its latency (R131) -/

/-- R131: each of the four delays is at most half of its own capacity. -/
theorem trigLatency_range {c : ConfigRegs} (h : elLegal c) :
    1 ≤ trigLatency c ∧ trigLatency c ≤ 510 := by
  simp only [elLegal, Config.mfCap, Config.egCap, Config.tlCap] at h
  unfold trigLatency
  split <;> omega

/-- What EL.INIT leaves, by the outcome of its checks. -/
def elInitResult (s : State) : Option (ErrorCode × BitVec 8) → State
  | some (e, check) =>
    failed { s with elRdy := false } (opcode .elInit).toNat e.code.toNat UnitId.el.num.toNat
      check.toNat
  | none =>
    replied
      { s with
        elRdy := true, el := ElState.zero, trigLat := BitVec.ofNat 10 (trigLatency s.cfg) }
      (dataWord (trigLatency s.cfg))

/-- The checks passed make the latency short enough for the response's DATA. -/
theorem exec_elInit (s : State) : exec .elInit s = .next (elInitResult s (elInitCheck s.cfg)) := by
  show execElInit s = _
  unfold execElInit
  cases h : elInitCheck s.cfg with
  | none =>
    obtain ⟨-, hmax⟩ := trigLatency_range (elInitCheck_eq_none.1 h)
    have hdata : (BitVec.ofNat 32 (trigLatency s.cfg)).toNat = trigLatency s.cfg := by
      rw [BitVec.toNat_ofNat, Nat.mod_eq_of_lt (by omega)]
    exact (respond_data_eq_replied _ _).trans (by rw [hdata]; rfl)
  | some f => exact raise_eq_failed _ _ _ _ _

/-! ### The stages of one step (R134) -/

/-- The matched filter's output of `ElStep(x)` (R135). -/
def elMf (s : State) (x : Int) : Int := mfOutput s.cfg s.host.mfc s.el x

/-- The timing error of `ElStep(x)` (R137). -/
def elTe (s : State) (x : Int) : Int := timingError s.el (elMf s x)

/-- The filtered timing error of `ElStep(x)` (R138). -/
def elLf (s : State) (x : Int) : Int := tlOutput s.cfg s.host.tlc s.el (elTe s x)

/-- pulse' of `ElStep(x)` (R139). -/
def elArmed (s : State) (x : Int) : Bool :=
  pulseArmed s.el.pulse s.cfg.elThr.toNat (elLf s x)

/-- The qualifying zero-crossing of `ElStep(x)` (R140). -/
def elCrossing (s : State) (x : Int) : Bool :=
  zeroCrossing s.el.zcPrev.toInt (elLf s x) && elArmed s x

/-- The reverberator after `ElStep(x)` (R141). -/
def elReverb (s : State) (x : Int) : Reverb :=
  reverberate s.cfg.elSymLen.toNat (elCrossing s x) s.el.trigDet s.el.trigUpd s.el.trigCnt.toNat

section

variable {s : State} {x : Int}

/-! ### Stage (a): the matched filter (R135) -/

/-- A filter's output after a write, 15 fraction bits dropped: tap 0 takes the new entry. -/
theorem asr_firSum_after_write {width len ix : Nat} (coef : Table 16) (line : Table width)
    (v : BitVec width) (hix : ix < len) :
    asr (firSum len coef (tabSet line ix v) ix) 15 =
      firOf len (fun k => (tabGet coef k).toInt) (fun k => (tabGet line k).toInt) ix v.toInt
        / 32768 := by
  rw [firSum_after_write _ _ _ hix, sumTo_eq_sum, firOf_eq_sumTo]
  rfl

theorem elMf_eq (hs : elSound s) (hx : -32768 ≤ x ∧ x ≤ 32767) :
    elMf s x =
      if s.cfg.elMfShape.toNat = 0 then
        s.el.mfSum.toInt + x - (tabGet s.el.mfb s.el.mfIx.toNat).toInt
      else
        firOf s.cfg.elSymLen.toNat (fun k => (tabGet s.host.mfc k).toInt)
          (fun k => (tabGet s.el.mfb k).toInt) s.el.mfIx.toNat x / 32768 := by
  obtain ⟨-, hix, -⟩ := hs
  unfold elMf mfOutput mfWrite
  rw [asr_firSum_after_write _ _ _ hix, ofInt16_toInt hx.1 hx.2]

/-- Without the sliding sum: the two samples that change the sum add at most 2^16 to it. -/
theorem elMf_abs_le (hs : elSound s) (hb : elBounded s) (hx : -32768 ≤ x ∧ x ≤ 32767) :
    |elMf s x| ≤ 2 ^ 23 + 65536 := by
  by_cases hshape : s.cfg.elMfShape.toNat = 0
  · obtain ⟨⟨hlo, hhi⟩, -⟩ := hb
    obtain ⟨hold, hold'⟩ := abs_le.1 (toInt_abs_le (tabGet s.el.mfb s.el.mfIx.toNat))
    rw [elMf_eq hs hx, if_pos hshape, abs_le]
    constructor <;> linarith
  · obtain ⟨⟨-, hcap, -⟩, hix, -⟩ := hs
    have h := mfOutput_abs_le s.host.mfc hcap hx hix fun h => absurd h hshape
    exact le_trans h (by norm_num)

/-! ### Stages (b) and (c): the timing error (R136, R137) -/

theorem elTe_eq (s : State) (x : Int) :
    elTe s x = |(tabGet s.el.egb s.el.egIx.toNat).toInt| - |elMf s x| := by
  unfold elTe timingError
  rw [absInt_eq_abs, absInt_eq_abs]

theorem elTe_abs_le (hs : elSound s) (hb : elBounded s) (hx : -32768 ≤ x ∧ x ≤ 32767) :
    |elTe s x| ≤ 2 ^ 23 + 65536 := by
  have hmf := elMf_abs_le hs hb hx
  obtain ⟨-, hegb, -⟩ := hb
  have hearly := abs_le.2 (hegb s.el.egIx.toNat)
  have h0 := abs_nonneg (tabGet s.el.egb s.el.egIx.toNat).toInt
  have h1 := abs_nonneg (elMf s x)
  rw [elTe_eq, abs_le]
  constructor <;> linarith

/-- A value within 2^23 + 2^16 loses nothing in a 32-bit entry. -/
theorem ofInt32_toInt_of_abs_le {v : Int} (h : |v| ≤ 2 ^ 23 + 65536) :
    (BitVec.ofInt 32 v).toInt = v := by
  obtain ⟨hlo, hhi⟩ := abs_le.1 h
  exact ofInt32_toInt (by linarith) (by linarith)

/-! ### Stage (d): the timing loop filter (R138) -/

theorem elLf_eq (hs : elSound s) (hb : elBounded s) (hx : -32768 ≤ x ∧ x ≤ 32767) :
    elLf s x =
      firOf s.cfg.elTlLen.toNat (fun k => (tabGet s.host.tlc k).toInt)
        (fun k => (tabGet s.el.tlb k).toInt) s.el.tlIx.toNat (elTe s x) / 32768 := by
  have hte := ofInt32_toInt_of_abs_le (elTe_abs_le hs hb hx)
  obtain ⟨-, -, -, hix, -⟩ := hs
  unfold elLf tlOutput tlWrite
  rw [asr_firSum_after_write _ _ _ hix, hte]

/-- At most 254 taps over entries within 2^23 and one over the new error. -/
theorem elLf_abs_le (hs : elSound s) (hb : elBounded s) (hx : -32768 ≤ x ∧ x ≤ 32767) :
    |elLf s x| ≤ 255 * 2 ^ 23 + 65536 := by
  have hte := elTe_abs_le hs hb hx
  obtain ⟨-, -, htlb, -⟩ := hb
  obtain ⟨⟨-, -, -, -, -, hcap, -⟩, -, -, hix, -⟩ := hs
  have hcap' : (s.cfg.elTlLen.toNat : Int) ≤ 255 := by exact_mod_cast hcap
  have h := firSum_after_write_abs_le s.host.tlc s.el.tlb (BitVec.ofInt 32 (elTe s x))
    (b := 2 ^ 23) (c := 65536) hix (by norm_num) (fun k => abs_le.2 (htlb k))
    (by rwa [ofInt32_toInt_of_abs_le hte])
  exact asr15_abs_le (by unfold tlWrite; linarith)

/-! ### Stage (e): the pulse detector and the qualifier (R139, R140) -/

theorem elArmed_iff (s : State) (x : Int) :
    elArmed s x = true ↔ s.el.pulse = true ∨ elLf s x ≤ -(s.cfg.elThr.toNat : Int) := by
  simp [elArmed, pulseArmed]

theorem elCrossing_iff (s : State) (x : Int) :
    elCrossing s x = true ↔ s.el.zcPrev.toInt < 0 ∧ 0 ≤ elLf s x ∧ elArmed s x = true := by
  simp [elCrossing, zeroCrossing, and_assoc]

/-! ### Stage (f): one step of the reverberator (R141) -/

theorem elReverb_waiting (hdet : s.el.trigDet = false) (hq : elCrossing s x = false) :
    elReverb s x = ⟨false, s.el.trigUpd, s.el.trigCnt.toNat, false⟩ := by
  rw [elReverb, hdet, hq]
  rfl

theorem elReverb_starting (hdet : s.el.trigDet = false) (hq : elCrossing s x = true) :
    elReverb s x = ⟨true, false, 0, true⟩ := by
  rw [elReverb, hdet, hq]
  rfl

theorem elReverb_running (hdet : s.el.trigDet = true) :
    elReverb s x = reverberate s.cfg.elSymLen.toNat (elCrossing s x) true s.el.trigUpd
      s.el.trigCnt.toNat := by
  rw [elReverb, hdet]

/-- The condition under which a step moves the counter of a running reverberator by one sample. -/
abbrev Nudged (len : Nat) (q upd : Bool) (cnt : Nat) : Prop :=
  q = true ∧ upd = false ∧ cnt + 1 ≠ len

/-- A running reverberator, by the value `c` its counter takes before the comparison with S. -/
theorem reverberate_of_count {len cnt c : Nat} {q upd : Bool}
    (hback : Nudged len q upd cnt → 2 * (cnt + 1) < len → c = cnt + 1 - 1)
    (hfwd : Nudged len q upd cnt → len ≤ 2 * (cnt + 1) → c = cnt + 1 + 1)
    (hstay : ¬ Nudged len q upd cnt → c = cnt + 1) :
    reverberate len q true upd cnt =
      if len ≤ c then ⟨true, false, 0, true⟩
      else ⟨true, decide (Nudged len q upd cnt) || upd, c, false⟩ := by
  by_cases hn : Nudged len q upd cnt
  · have hc : c = if 2 * (cnt + 1) < len then cnt else cnt + 2 := by
      split
      · next hlt => exact hback hn hlt
      · next hlt => exact hfwd hn (by omega)
    rw [decide_eq_true hn, Bool.true_or, hc]
    obtain ⟨rfl, rfl, hne⟩ := hn
    exact reverberate_nudged hne
  · have hkeep : q = false ∨ upd = true ∨ cnt + 1 = len := by
      by_contra hnot
      simp only [not_or, Bool.not_eq_false, Bool.not_eq_true] at hnot
      exact hn hnot
    rw [decide_eq_false hn, Bool.false_or, hstay hn]
    exact reverberate_running hkeep

/-! ### What one step of EL leaves (R134) -/

theorem elOut_mfSum_toInt (hs : elSound s) (hb : elBounded s) (hx : -32768 ≤ x ∧ x ≤ 32767) :
    (elOut s x).el.mfSum.toInt = elMf s x :=
  ofInt32_toInt_of_abs_le (elMf_abs_le hs hb hx)

/-- 255 * 2^23 + 2^16 is still below 2^31. -/
theorem elOut_zcPrev_toInt (hs : elSound s) (hb : elBounded s) (hx : -32768 ≤ x ∧ x ≤ 32767) :
    (elOut s x).el.zcPrev.toInt = elLf s x := by
  obtain ⟨hlo, hhi⟩ := abs_le.1 (elLf_abs_le hs hb hx)
  show (BitVec.ofInt 32 (elLf s x)).toInt = _
  exact ofInt32_toInt (by linarith) (by linarith)

theorem elOut_indices_toNat (hs : elSound s) (x : Int) :
    (elOut s x).el.mfIx.toNat = (s.el.mfIx.toNat + 1) % s.cfg.elSymLen.toNat
      ∧ (elOut s x).el.egIx.toNat = (s.el.egIx.toNat + 1) % s.cfg.elEgLen.toNat
      ∧ (elOut s x).el.tlIx.toNat = (s.el.tlIx.toNat + 1) % s.cfg.elTlLen.toNat := by
  obtain ⟨⟨hS, hScap, hD, hDcap, hodd, hLcap, -⟩, -⟩ := hs
  exact ⟨wrapIndex_toNat hS (le_trans hScap (by decide)),
    wrapIndex_toNat hD (le_trans hDcap (by decide)),
    wrapIndex_toNat (by omega) (le_trans hLcap (by decide))⟩

theorem elOut_mfb (s : State) (hx : -32768 ≤ x ∧ x ≤ 32767) (k : Nat) :
    (tabGet (elOut s x).el.mfb k).toInt =
      if k = s.el.mfIx.toNat then x else (tabGet s.el.mfb k).toInt := by
  show (tabGet (tabSet s.el.mfb s.el.mfIx.toNat (BitVec.ofInt 16 x)) k).toInt = _
  rw [tabGet_tabSet, apply_ite BitVec.toInt, ofInt16_toInt hx.1 hx.2]

/-- A delay line of 32-bit entries after the write of a value in the range of the stages. -/
theorem tabGet_tabSet_ofInt32 {v : Int} (line : Table 32) (ix k : Nat)
    (hv : |v| ≤ 2 ^ 23 + 65536) :
    (tabGet (tabSet line ix (BitVec.ofInt 32 v)) k).toInt =
      if k = ix then v else (tabGet line k).toInt := by
  rw [tabGet_tabSet, apply_ite BitVec.toInt, ofInt32_toInt_of_abs_le hv]

theorem elOut_egb (hs : elSound s) (hb : elBounded s) (hx : -32768 ≤ x ∧ x ≤ 32767) (k : Nat) :
    (tabGet (elOut s x).el.egb k).toInt =
      if k = s.el.egIx.toNat then elMf s x else (tabGet s.el.egb k).toInt :=
  tabGet_tabSet_ofInt32 _ _ _ (elMf_abs_le hs hb hx)

theorem elOut_tlb (hs : elSound s) (hb : elBounded s) (hx : -32768 ≤ x ∧ x ≤ 32767) (k : Nat) :
    (tabGet (elOut s x).el.tlb k).toInt =
      if k = s.el.tlIx.toNat then elTe s x else (tabGet s.el.tlb k).toInt :=
  tabGet_tabSet_ofInt32 _ _ _ (elTe_abs_le hs hb hx)

/-- R140: a qualifying crossing uses the pulse up. -/
theorem elOut_pulse_iff (s : State) (x : Int) :
    (elOut s x).el.pulse = true ↔ elArmed s x = true ∧ ¬ elCrossing s x = true := by
  show (elArmed s x && !elCrossing s x) = true ↔ _
  simp

/-- R39 (c): the counter is below S, so it fits EL_TRIGCNT. -/
theorem elOut_trigCnt_toNat (hs : elSound s) (x : Int) :
    (elOut s x).el.trigCnt.toNat = (elReverb s x).cnt := by
  obtain ⟨⟨-, hcap, -⟩, -, -, -, hcnt, -⟩ := hs
  have hlt : (elReverb s x).cnt < s.cfg.elSymLen.toNat := reverberate_cnt_lt _ _ _ hcnt
  show (BitVec.ofNat 9 (elReverb s x).cnt).toNat = _
  rw [BitVec.toNat_ofNat, Nat.mod_eq_of_lt (lt_of_lt_of_le hlt (le_trans hcap (by decide)))]

end

/-! ### The reverberator over many steps (R141) -/

section

variable {len : Nat}

/-- From count `c`, without crossings, the trigger comes whenever `c` and the steps made since add up
to a multiple of S. -/
theorem triggersOf_replicate_false (n c : Nat) (upd : Bool) (hc : c < len) :
    triggersOf len c upd (List.replicate n false) =
      (List.range n).map fun k => decide ((c + k + 1) % len = 0) := by
  induction n generalizing c upd with
  | zero => rfl
  | succ n ih =>
    rw [List.replicate_succ, triggersOf, reverberate_running (.inl rfl), List.range_succ_eq_map,
      List.map_cons, List.map_map]
    by_cases hlast : c + 1 = len
    · rw [if_pos (by omega), ih 0 false (by omega)]
      congr 1
      · simp [hlast]
      · refine List.map_congr_left fun k _ => ?_
        have hwrap : c + (k + 1) + 1 = 0 + k + 1 + len := by omega
        simp only [Function.comp, Nat.succ_eq_add_one, hwrap, Nat.add_mod_right]
    · rw [if_neg (by omega), ih (c + 1) upd (by omega)]
      congr 1
      · simp [Nat.mod_eq_of_lt (show c + 1 < len by omega)]
      · refine List.map_congr_left fun k _ => ?_
        have hstep : c + (k + 1) + 1 = c + 1 + k + 1 := by omega
        simp only [Function.comp, Nat.succ_eq_add_one, hstep]

/-- The first trigger of the list stands at place `m`, counted from 0. -/
def FirstTriggerAt (m : Nat) (trigs : List Bool) : Prop :=
  trigs[m]? = some true ∧ ∀ k < m, trigs[k]? = some false

theorem firstTriggerAt_zero (trigs : List Bool) : FirstTriggerAt 0 (true :: trigs) :=
  ⟨rfl, fun _ hk => absurd hk (Nat.not_lt_zero _)⟩

theorem FirstTriggerAt.succ {m : Nat} {trigs : List Bool} (h : FirstTriggerAt m trigs) :
    FirstTriggerAt (m + 1) (false :: trigs) := by
  obtain ⟨hm, hbefore⟩ := h
  refine ⟨by simpa using hm, fun k hk => ?_⟩
  cases k with
  | zero => rfl
  | succ k => simpa using hbefore k (by omega)

/-- After its nudge the reverberator counts up to S whatever crossings arrive. -/
theorem firstTriggerAt_after_nudge (qs : List Bool) (c : Nat) (hc : c < len)
    (hlen : len ≤ c + qs.length) :
    FirstTriggerAt (len - (c + 1)) (triggersOf len c true qs) := by
  induction qs generalizing c with
  | nil => exact absurd hlen (by simpa using hc)
  | cons q rest ih =>
    rw [List.length_cons] at hlen
    rw [triggersOf, reverberate_running (.inr (.inl rfl))]
    by_cases hlast : c + 1 = len
    · rw [if_pos (by omega), hlast, Nat.sub_self]
      exact firstTriggerAt_zero _
    · rw [if_neg (by omega), show len - (c + 1) = len - (c + 1 + 1) + 1 by omega]
      exact (ih (c + 1) (by omega) (by omega)).succ

/-- Before its nudge, from count `c`: the one crossing that moves the counter moves the trigger by one
step, to later when it comes in the first half of the symbol and to earlier in the second. -/
theorem exists_firstTriggerAt (qs : List Bool) (c : Nat) (hc : c < len)
    (hlen : len + 1 ≤ c + qs.length) :
    ∃ m, FirstTriggerAt m (triggersOf len c false qs) ∧ len ≤ c + m + 2 ∧ c + m ≤ len := by
  induction qs generalizing c with
  | nil =>
    simp only [List.length_nil] at hlen
    omega
  | cons q rest ih =>
    rw [List.length_cons] at hlen
    rw [triggersOf]
    by_cases hlast : c + 1 = len
    · rw [reverberate_running (.inr (.inr hlast)), if_pos (by omega)]
      exact ⟨0, firstTriggerAt_zero _, by omega, by omega⟩
    cases q with
    | false =>
      rw [reverberate_running (.inl rfl), if_neg (by omega)]
      obtain ⟨m, hm, hlo, hhi⟩ := ih (c + 1) (by omega) (by omega)
      exact ⟨m + 1, hm.succ, by omega, by omega⟩
    | true =>
      rw [reverberate_nudged hlast]
      by_cases hback : 2 * (c + 1) < len
      · rw [if_pos hback, if_neg (by omega)]
        exact ⟨_, (firstTriggerAt_after_nudge rest c hc (by omega)).succ, by omega, by omega⟩
      · rw [if_neg hback]
        by_cases hnow : len ≤ c + 2
        · rw [if_pos hnow]
          exact ⟨0, firstTriggerAt_zero _, by omega, by omega⟩
        · rw [if_neg hnow]
          exact ⟨_, (firstTriggerAt_after_nudge rest (c + 2) (by omega) (by omega)).succ,
            by omega, by omega⟩

end

end Sys2Proof.Machine

namespace Sys2Proof.Proofs

open Sys2Proof.Machine Sys2Proof.Statements

/-- Settles O43: each stage of the step is one of the lemmas above, and the reverberator's three cases
are waiting, starting and running. -/
theorem elStepComputesTheGate : Obligations.ElStepComputesTheGate := by
  intro s x hr hs hb len mix' old mf te lf armed q c0 nudged
  have hx := sampleOf_range x
  have hmf : elMf s (sampleOf x) = mf := elMf_eq hs hx
  have hte : elTe s (sampleOf x) = te := by rw [elTe_eq, hmf]
  have hlf : elLf s (sampleOf x) = lf := by rw [elLf_eq hs hb hx, hte]
  have harmed : elArmed s (sampleOf x) = true ↔ armed := by rw [elArmed_iff, hlf]
  have hq : elCrossing s (sampleOf x) = true ↔ q := by rw [elCrossing_iff, hlf, harmed]
  have hnudged : Nudged len (elCrossing s (sampleOf x)) s.el.trigUpd s.el.trigCnt.toNat ↔ nudged :=
    and_congr_left' hq
  have hcnt := elOut_trigCnt_toNat hs (sampleOf x)
  obtain ⟨hmfIx, hegIx, htlIx⟩ := elOut_indices_toNat hs (sampleOf x)
  refine ⟨_, (elReverb s (sampleOf x)).trig,
    (execElStep_ready x hr hs).trans (respond_eq_replied _ _ rfl),
    (elOut_mfSum_toInt hs hb hx).trans hmf, (elOut_zcPrev_toInt hs hb hx).trans hlf,
    hmfIx, hegIx, htlIx, elOut_mfb s hx,
    fun k => (elOut_egb hs hb hx k).trans (by rw [hmf]),
    fun k => (elOut_tlb hs hb hx k).trans (by rw [hte]),
    (elOut_pulse_iff s _).trans (and_congr harmed (not_congr hq)), ?waits, ?starts, ?runs, rfl⟩
  case waits =>
    intro hdet hnq
    have hrev := elReverb_waiting hdet (Bool.eq_false_iff.2 (mt hq.1 hnq))
    rw [hrev] at hcnt ⊢
    exact ⟨rfl, congrArg Reverb.det hrev, congrArg Reverb.upd hrev, BitVec.eq_of_toNat_eq hcnt⟩
  case starts =>
    intro hdet hqq
    have hrev := elReverb_starting hdet (hq.2 hqq)
    rw [hrev] at hcnt ⊢
    exact ⟨rfl, congrArg Reverb.det hrev, congrArg Reverb.upd hrev, hcnt⟩
  case runs =>
    intro hdet c hback hfwd hstay
    have hrev := (elReverb_running hdet).trans
      (reverberate_of_count (hback ∘ hnudged.1) (hfwd ∘ hnudged.1) (hstay ∘ mt hnudged.2))
    by_cases hc : len ≤ c
    · rw [if_pos hc] at hrev
      rw [hrev] at hcnt ⊢
      exact ⟨congrArg Reverb.det hrev, fun _ => ⟨rfl, congrArg Reverb.upd hrev, hcnt⟩,
        fun hlt => absurd hc (Nat.not_le.2 hlt)⟩
    · rw [if_neg hc] at hrev
      rw [hrev] at hcnt ⊢
      refine ⟨congrArg Reverb.det hrev, fun hle => absurd hle hc, fun _ => ⟨rfl, ?_, hcnt⟩⟩
      show (elReverb s (sampleOf x)).upd = true ↔ _
      rw [hrev, ← hnudged, Bool.or_eq_true, decide_eq_true_iff]

/-- Settles O44: EL_ZCPREV holds the filtered error of this step, so nothing arms, no crossing
qualifies, and a waiting reverberator keeps waiting. -/
theorem noTriggerBelowThreshold : Obligations.NoTriggerBelowThreshold := by
  intro s t x hr hs hb hpulse hdet ht hthr
  obtain ⟨t', trig, ht', -, hzc, -, -, -, -, -, -, hpulse', hwaits, -, -, hframe⟩ :=
    elStepComputesTheGate s x hr hs hb
  obtain rfl : t' = t := by
    rw [ht] at ht'
    cases ht'
    rfl
  rw [← hzc] at hpulse' hwaits
  have hunarmed : ¬ (s.el.pulse = true ∨ t'.el.zcPrev.toInt ≤ -(s.cfg.elThr.toNat : Int)) := by
    rw [hpulse]
    simpa using hthr
  obtain ⟨rfl, hdet', -, -⟩ := hwaits hdet fun hq => hunarmed hq.2.2
  refine ⟨Bool.eq_false_iff.2 fun hp => hunarmed (hpulse'.1 hp).1, hdet', ?_⟩
  exact congrArg State.rspPort hframe

/-- Settles O45: by induction on the number of steps, from every count. -/
theorem reverberatorFreeRuns : Obligations.ReverberatorFreeRuns := by
  intro len n upd hlen
  simpa using triggersOf_replicate_false n 0 upd hlen

/-- Settles O46: a count of steps until the nudge, and from the nudge on whatever arrives. -/
theorem triggersAreNeverCloser : Obligations.TriggersAreNeverCloser := by
  intro len qs hlen hqs
  obtain ⟨m, ⟨hm, hbefore⟩, hlo, hhi⟩ := exists_firstTriggerAt qs 0 hlen (by omega)
  exact ⟨m + 1, by omega, by omega, by omega, hm, hbefore⟩

/-- Settles O34: the outcome of the checks, carried through their chain. -/
theorem elInitChecksInOrder : Obligations.ElInitChecksInOrder := by
  refine ⟨rfl, fun s => ?_⟩
  rw [exec_elInit]
  simp only [elInitCheck, apply_ite (elInitResult s)]
  rfl

/-- Settles O36: the two ends of every length, through the formula. -/
theorem triggerLatencyRange : Obligations.TriggerLatencyRange := fun _ h => trigLatency_range h

end Sys2Proof.Proofs
end

section
/-! PROOFS. The sync delay unit (spec/43_syncdelay.md): the checks of SD.INIT (R160) and of DD.INIT, whose
form is the same (44_decision.md R170), the word and the effect of SD.DELAY (R162), and the delay law
(R164 (a)), for which a buffer is read as a queue from its oldest entry to its newest. -/

namespace Sys2Proof.Machine

open Sys2Proof.Statements

/-! ### SD.INIT and DD.INIT (R160, R170) -/

/-- What the INIT `i` of unit `u` leaves, by the outcome of its checks: `unready` is the state in which
a check fails, `cleared` the state in which all pass. -/
def initResult (i : Instr) (u : UnitId) (unready cleared : State) :
    Option (ErrorCode × BitVec 8) → State
  | some (e, check) => failed unready (opcode i).toNat e.code.toNat u.num.toNat check.toNat
  | none => replied cleared (dataWord 0)

theorem exec_sdInit (s : State) :
    exec .sdInit s =
      .next (initResult .sdInit .sd { s with sdRdy := false }
        { s with sdRdy := true, sd := SdState.zero } (sdInitCheck s.cfg)) := by
  show execSdInit s = _
  unfold execSdInit
  cases sdInitCheck s.cfg with
  | none => exact respond_nil_eq_replied _
  | some f => exact raise_eq_failed _ _ _ _ _

theorem exec_ddInit (s : State) :
    exec .ddInit s =
      .next (initResult .ddInit .dd { s with ddRdy := false }
        { s with ddRdy := true, dd := DdState.zero } (ddInitCheck s.cfg)) := by
  show execDdInit s = _
  unfold execDdInit
  cases ddInitCheck s.cfg with
  | none => exact respond_nil_eq_replied _
  | some f => exact raise_eq_failed _ _ _ _ _

/-! ### One push into a buffer (R162) -/

section

variable {len : Nat} {sd : SdState}

/-- The entry the buffer answers next: the one at its index. -/
def sdOldest (sd : SdState) (b : Buffer) : Sample := tabGet (sdLine sd b) (sdIndex sd b)

theorem sdOut_eq_toInt (sd : SdState) (b : Buffer) : sdOut sd b = (sdOldest sd b).toInt := rfl

theorem tabGet_sdLine_sdPush (len : Nat) (sd : SdState) (b : Buffer) (x : Sample) (k : Nat) :
    tabGet (sdLine (sdPush len sd b x.toInt) b) k =
      if k = sdIndex sd b then x else tabGet (sdLine sd b) k := by
  have hline : sdLine (sdPush len sd b x.toInt) b =
      tabSet (sdLine sd b) (sdIndex sd b) (BitVec.ofInt 16 x.toInt) := by
    cases b <;> rfl
  rw [hline, tabGet_tabSet, BitVec.ofInt_toInt]

theorem sdIndex_sdPush (sd : SdState) (b : Buffer) (x : Int) (hpos : 0 < len)
    (hcap : len ≤ Config.sdCap) :
    sdIndex (sdPush len sd b x) b = (sdIndex sd b + 1) % len := by
  cases b <;> exact wrapIndex_toNat hpos hcap

/-! ### SD.DELAY (R162) -/

theorem encode_sdDelay (b : Buffer) (x : Sample) :
    encode (.sdDelay b x) = cmdWord 0x32 (if b = .sdb1 then 1 else 0) 0 x.toNat := by
  have hx : (encodeD (.sdDelay b x)).toNat = x.toNat := BitVec.toNat_setWidth_of_le (by decide)
  rw [encode_eq_ofNat, hx]
  cases b <;> rfl

/-- The response carries the pattern of the oldest entry, zero-extended. -/
theorem exec_sdDelay_ready {s : State} (b : Buffer) (x : Sample) (hr : s.sdRdy = true)
    (hs : sdSound s) :
    exec (.sdDelay b x) s =
      .next (replied (sdDelayState s b (sampleOf x)) (dataWord (sdOldest s.sd b).toNat)) := by
  have hdata : ((BitVec.ofInt 16 (sdOut s.sd b)).setWidth 32).toNat = (sdOldest s.sd b).toNat := by
    rw [sdOut_eq_toInt, BitVec.ofInt_toInt, BitVec.toNat_setWidth_of_le (by decide)]
  rw [← hdata, ← respond_data_eq_replied]
  exact execSdDelay_ready b x hr hs

/-! ### The delay law (R164) -/

/-- The samples a buffer of length `len` holds, from the oldest to the newest. -/
def delayQueue (len : Nat) (sd : SdState) (b : Buffer) : List Sample :=
  (List.range len).map fun k => tabGet (sdLine sd b) ((sdIndex sd b + k) % len)

/-- An offset below the length leads back to the index only when it is 0. -/
theorem wrappedOffset_ne {ix k : Nat} (hix : ix < len) (hk0 : 0 < k) (hk : k < len) :
    (ix + k) % len ≠ ix := by
  intro h
  rcases Nat.lt_or_ge (ix + k) len with hlt | hge
  · rw [Nat.mod_eq_of_lt hlt] at h
    omega
  · rw [Nat.mod_eq_sub_mod hge, Nat.mod_eq_of_lt (by omega)] at h
    omega

/-- A push takes the oldest entry off the front of the queue and puts the sample at its end. -/
theorem delayQueue_sdPush (b : Buffer) (x : Sample) (hix : sdIndex sd b < len)
    (hcap : len ≤ Config.sdCap) :
    ∃ rest, delayQueue len sd b = sdOldest sd b :: rest
      ∧ delayQueue len (sdPush len sd b x.toInt) b = rest ++ [x] := by
  obtain ⟨n, rfl⟩ : ∃ n, len = n + 1 := ⟨len - 1, by omega⟩
  have hnext : sdIndex (sdPush (n + 1) sd b x.toInt) b = (sdIndex sd b + 1) % (n + 1) :=
    sdIndex_sdPush sd b _ (by omega) hcap
  refine ⟨(List.range n).map fun k => tabGet (sdLine sd b) ((sdIndex sd b + (k + 1)) % (n + 1)),
    ?front, ?back⟩
  case front =>
    rw [delayQueue, List.range_succ_eq_map, List.map_cons, List.map_map, Nat.add_zero,
      Nat.mod_eq_of_lt hix]
    rfl
  case back =>
    have hwrap (k : Nat) :
        ((sdIndex sd b + 1) % (n + 1) + k) % (n + 1) = (sdIndex sd b + (k + 1)) % (n + 1) := by
      rw [Nat.mod_add_mod, Nat.add_assoc, Nat.add_comm 1 k]
    simp only [delayQueue, hnext, hwrap, tabGet_sdLine_sdPush]
    rw [List.range_succ, List.map_append]
    congr 1
    · refine List.map_congr_left fun k hk => if_neg (wrappedOffset_ne hix (by omega) ?_)
      have := List.mem_range.1 hk
      omega
    · simp [Nat.mod_eq_of_lt hix]

/-- What the queue holds comes out first, then the samples in the order they were fed. -/
theorem feedDelay_eq_take (b : Buffer) (xs : List Sample) (hix : sdIndex sd b < len)
    (hcap : len ≤ Config.sdCap) :
    feedDelay len sd b (xs.map BitVec.toInt) =
      ((delayQueue len sd b ++ xs).take xs.length).map BitVec.toInt := by
  induction xs generalizing sd with
  | nil => simp [feedDelay]
  | cons x xs ih =>
    obtain ⟨rest, hqueue, hpushed⟩ := delayQueue_sdPush b x hix hcap
    have hix' : sdIndex (sdPush len sd b x.toInt) b < len := by
      rw [sdIndex_sdPush sd b _ (by omega) hcap]
      exact Nat.mod_lt _ (by omega)
    rw [List.map_cons, feedDelay, ih hix', hpushed, hqueue, sdOut_eq_toInt]
    simp

theorem delayQueue_zero (len : Nat) (b : Buffer) :
    delayQueue len SdState.zero b = List.replicate len 0#16 := by
  have hempty : sdLine SdState.zero b = [] := by cases b <;> rfl
  simp [delayQueue, hempty, List.map_const']

end

end Sys2Proof.Machine

namespace Sys2Proof.Proofs

open Sys2Proof.Machine Sys2Proof.Statements

/-- Settles O35: the outcome of the two checks, carried through their chain. -/
theorem sdAndDdInitChecksInOrder : Obligations.SdAndDdInitChecksInOrder := by
  refine ⟨rfl, rfl, fun s => ⟨?sd, ?dd⟩⟩
  case sd =>
    rw [exec_sdInit]
    simp only [sdInitCheck, apply_ite (initResult _ _ _ _)]
    rfl
  case dd =>
    rw [exec_ddInit]
    simp only [ddInitCheck, apply_ite (initResult _ _ _ _)]
    rfl

/-- Settles O47: a READY, sound unit pushes the sample into the buffer named and answers its oldest
entry; the push writes that buffer and its index alone. -/
theorem sdDelayReadsOldestWritesNewest : Obligations.SdDelayReadsOldestWritesNewest := by
  refine ⟨fun x => ⟨encode_sdDelay .sdb0 x, encode_sdDelay .sdb1 x⟩, fun s b x => ?notReady,
    fun s x hr hs => ?ready⟩
  case notReady =>
    obtain ⟨-, -, -, hdelay, -⟩ := stepCommandsNeedReady s x x x b 0#6
    exact hdelay
  case ready =>
    have ⟨⟨hpos, hcap⟩, _⟩ := hs
    exact ⟨⟨_, exec_sdDelay_ready .sdb0 x hr hs, tabGet_sdLine_sdPush _ s.sd .sdb0 x,
        sdIndex_sdPush s.sd .sdb0 _ hpos hcap, rfl⟩,
      ⟨_, exec_sdDelay_ready .sdb1 x hr hs, tabGet_sdLine_sdPush _ s.sd .sdb1 x,
        sdIndex_sdPush s.sd .sdb1 _ hpos hcap, rfl⟩⟩

/-- Settles O48: a cleared buffer is a queue of `n` zeros, and the samples leave it behind them. -/
theorem delayLaw : Obligations.DelayLaw := by
  intro n b xs hpos hcap
  have hix : sdIndex SdState.zero b < n := by cases b <;> exact hpos
  rw [feedDelay_eq_take b xs hix hcap, delayQueue_zero]
  refine List.ext_getElem (by simp) fun m _ hm => ?_
  have hlen : m < xs.length := by simpa using hm
  simp only [List.getElem_map, List.getElem_take, List.getElem_append, List.length_replicate,
    List.getElem_replicate, List.getElem_range]
  split
  · rfl
  · rw [List.getD_eq_getElem _ _ (by omega)]

end Sys2Proof.Proofs
end

section
/-! PROOFS. The decision unit (spec/44_decision.md): the gate, the nearest point and the count of DD.SLICE
(R172 to R174), the change that DD.DIFF decodes (R175), and what a rotation does to it (R177). -/

namespace Sys2Proof.Machine

open Sys2Proof.Statements

/-! ### The gate and the search of the slicer (R172, R173) -/

theorem gateAccepts_eq_true {thr : Nat} {i q : Int} :
    gateAccepts thr i q = true ↔ (thr : Int) ≤ i * i + q * q := decide_eq_true_iff

/-- The slicer's index is the first of the points below M at the least distance. -/
theorem nearest_spec {m : Nat} (const : Table 32) (i q : Int) (hm : 1 ≤ m) :
    (∀ j < m, distSq const i q (nearest m const i q) ≤ distSq const i q j)
      ∧ ∀ j < nearest m const i q,
          distSq const i q (nearest m const i q) < distSq const i q j := by
  obtain ⟨-, -, hleast, hfirst⟩ := firstMin_spec (distSq const i q) (m - 1)
  exact ⟨fun j hj => hleast j (by omega), hfirst⟩

/-- The count saturates inside its register. -/
theorem decCntNext_toNat (n : BitVec 16) : (decCntNext n).toNat = min (n.toNat + 1) 65535 := by
  rw [decCntNext, BitVec.toNat_ofNat]
  omega

/-! ### DD.SLICE (R174) -/

theorem encode_ddSlice (pi pq : Sample) :
    encode (.ddSlice pi pq) = cmdWord 0x42 0 0 (pi.toNat * 2 ^ 16 + pq.toNat) := by
  have hd : (encodeD (.ddSlice pi pq)).toNat = pi.toNat * 2 ^ 16 + pq.toNat := toNat_append_add pi pq
  rw [encode_eq_ofNat, hd]
  rfl

section

variable {s : State} {pi pq : Sample}

/-- A pair under the gate is answered REJ with the sentinel index, and is not counted. -/
theorem exec_ddSlice_rejected (hr : s.ddRdy = true) (hs : ddSound s)
    (hgate : pi.toInt * pi.toInt + pq.toInt * pq.toInt < (s.cfg.ddMagThr.toNat : Int)) :
    exec (.ddSlice pi pq) s =
      .next (replied s (okWord false false false true false false 0 0xFF 0)) := by
  have hreject : ¬ gateAccepts s.cfg.ddMagThr.toNat (sampleOf pi) (sampleOf pq) = true :=
    fun h => absurd (gateAccepts_eq_true.1 h) (not_le.2 hgate)
  refine (execDdSlice_ready pi pq hr hs).trans ?_
  rw [sliceOut, sliceState, if_neg hreject, if_neg hreject]
  exact respond_eq_replied _ s rfl

/-- A pair that passes the gate is answered ACC with the index of its point, and is counted. The
index is below CONST_CAP, so IDX holds it whole. -/
theorem exec_ddSlice_accepted (hr : s.ddRdy = true) (hs : ddSound s)
    (hgate : (s.cfg.ddMagThr.toNat : Int) ≤ pi.toInt * pi.toInt + pq.toInt * pq.toInt) :
    exec (.ddSlice pi pq) s =
      .next (replied { s with dd := { s.dd with decCnt := decCntNext s.dd.decCnt } }
        (okWord false false false false true false 0
          (nearest s.cfg.ddM.toNat s.host.const pi.toInt pq.toInt) 0)) := by
  have ⟨⟨hpos, hcap⟩, _⟩ := hs
  have haccept : gateAccepts s.cfg.ddMagThr.toNat (sampleOf pi) (sampleOf pq) = true :=
    gateAccepts_eq_true.2 hgate
  have hidx : (BitVec.ofNat 8 (nearest s.cfg.ddM.toNat s.host.const pi.toInt pq.toInt)).toNat =
      nearest s.cfg.ddM.toNat s.host.const pi.toInt pq.toInt := by
    have hlt : nearest s.cfg.ddM.toNat s.host.const pi.toInt pq.toInt < 64 :=
      lt_of_lt_of_le (nearest_lt _ _ _ hpos) hcap
    rw [BitVec.toNat_ofNat, Nat.mod_eq_of_lt (by omega)]
  refine (execDdSlice_ready pi pq hr hs).trans ?_
  rw [sliceOut, sliceState, if_pos haccept, if_pos haccept, respond_eq_replied _ _ rfl]
  simp only [sliceResponse, sampleOf, hidx]
  rfl

end

/-! ### The change between two indices (R175, R177) -/

/-- The M that R175 adds keeps the difference positive and leaves its residue alone. -/
theorem diffDelta_eq_sub_emod (m prev cur : Nat) :
    diffDelta m prev cur = (((cur : Int) - (prev : Int)) % (m : Int)).toNat := by
  rw [diffDelta, Int.add_emod_right]

/-- The change over the naturals, where the difference is taken last. -/
theorem diffDelta_eq_mod {m prev : Nat} (cur : Nat) (hprev : prev < m) :
    diffDelta m prev cur = (cur + m - prev) % m := by
  have hcast : (cur : Int) - (prev : Int) + (m : Int) = ((cur + m - prev : Nat) : Int) := by omega
  rw [diffDelta, hcast, ← Int.natCast_mod, Int.toNat_natCast]

/-- The rotation drops out of the difference of the two residues. -/
theorem diffDelta_rotate (m prev cur r : Nat) :
    diffDelta m ((prev + r) % m) ((cur + r) % m) = diffDelta m prev cur := by
  rw [diffDelta_eq_sub_emod, diffDelta_eq_sub_emod]
  push_cast
  rw [← Int.sub_emod, add_sub_add_right_eq_sub]

/-! ### DD.DIFF (R175) -/

theorem encode_ddDiff (cur : BitVec 6) : encode (.ddDiff cur) = cmdWord 0x43 0 0 cur.toNat := by
  have hd : (encodeD (.ddDiff cur)).toNat = cur.toNat := BitVec.toNat_setWidth_of_le (by decide)
  rw [encode_eq_ofNat, hd]
  rfl

section

variable {s : State} {cur : BitVec 6}

theorem diffState_index (s : State) (cur : BitVec 6) :
    diffState s cur.toNat = { s with dd := { s.dd with prev := cur } } := by
  rw [diffState, BitVec.ofNat_toNat, BitVec.setWidth_eq]

theorem exec_ddDiff_ready (hr : s.ddRdy = true) (hs : ddSound s)
    (hcur : cur.toNat < s.cfg.ddM.toNat) :
    exec (.ddDiff cur) s =
      .next (replied { s with dd := { s.dd with prev := cur } }
        (okWord false false false false false false (diffOut s cur.toNat).toNat 0 0)) := by
  refine (execDdDiff_ready cur hr hs hcur).trans ?_
  rw [respond_eq_replied _ _ rfl, diffState_index]
  rfl

/-- The operand check comes before the soundness of the unit is looked at. -/
theorem exec_ddDiff_beyond (hr : s.ddRdy = true) (hcur : s.cfg.ddM.toNat ≤ cur.toNat) :
    exec (.ddDiff cur) s = .next (failed s 0x43 6 4 1) := by
  show execDdDiff cur s = _
  rw [execDdDiff, if_pos hr, if_neg (not_lt.2 hcur)]
  exact raise_eq_failed _ _ _ _ _

end

end Sys2Proof.Machine

namespace Sys2Proof.Proofs

open Sys2Proof.Machine Sys2Proof.Statements

/-- Settles O49: the gate decides between the two answers, and the index of an accepted pair is the
first minimum of the search. -/
theorem ddSliceAnswersTheNearestPoint : Obligations.DdSliceAnswersTheNearestPoint := by
  refine ⟨encode_ddSlice, fun s pi pq => ?notReady,
    fun s pi pq hr hs => ⟨exec_ddSlice_rejected hr hs, fun hgate => ?accepted⟩⟩
  case notReady =>
    obtain ⟨-, -, -, -, hslice, -⟩ := stepCommandsNeedReady s pi pi pq .sdb0 0#6
    exact hslice
  case accepted =>
    have ⟨⟨hpos, _⟩, _⟩ := hs
    obtain ⟨hleast, hfirst⟩ := nearest_spec s.host.const pi.toInt pq.toInt hpos
    exact ⟨_, _, exec_ddSlice_accepted hr hs hgate, nearest_lt _ _ _ hpos, hleast, hfirst,
      decCntNext_toNat s.dd.decCnt, rfl⟩

/-- Settles O50: an index below M is decoded at its change from DD_PREV, any other is refused by the
operand check. -/
theorem ddDiffDecodesTheChange : Obligations.DdDiffDecodesTheChange := by
  refine ⟨encode_ddDiff, fun s cur => ?notReady,
    fun s cur hr hs => ⟨fun hcur => ?decoded, exec_ddDiff_beyond hr⟩⟩
  case notReady =>
    obtain ⟨-, -, -, -, -, hdiff⟩ := stepCommandsNeedReady s 0#16 0#16 0#16 .sdb0 cur
    exact hdiff
  case decoded =>
    have ⟨_, hprev⟩ := hs
    rw [exec_ddDiff_ready hr hs hcur, diffOut, diffDelta_eq_mod cur.toNat hprev]

/-- Settles O51: a rotation drops out of the change, whatever the indices. -/
theorem rotationInvariance : Obligations.RotationInvariance :=
  fun m prev cur r _ _ => diffDelta_rotate m prev cur r

end Sys2Proof.Proofs
end

section
/-! PROOFS. The demodulator pipeline (spec/45_pipeline.md): the burst state machine (R192, R193),
the order of DM.STEP's checks (R190, R191), and an ungated step as the run of the unit commands
(R190, R194). -/

namespace Sys2Proof.Machine

open Sys2Proof.Statements

/-! ### The burst state machine (R192, R193) -/

section

variable {s : State}

/-- In RESET, p is the next state and nothing is flushed. -/
theorem exec_dmBurst_of_reset (h : s.bstate = .reset) :
    exec (.dmBurst false) s = .next (replied s (dataWord 0))
      ∧ exec (.dmBurst true) s =
          .next (replied { s with bstate := .demodulating } (dataWord 1)) := by
  constructor
  · show execDmBurst false s = _
    unfold execDmBurst
    rw [h]
    exact respond_data_eq_replied 0#32 s
  · show execDmBurst true s = _
    unfold execDmBurst
    rw [h]
    exact respond_data_eq_replied 1#32 _

/-- In DEMODULATING, p = 0 ends the burst: the flush, RESET, and the frame separator. -/
theorem exec_dmBurst_of_demodulating (h : s.bstate = .demodulating) :
    exec (.dmBurst true) s = .next (replied s (dataWord 1))
      ∧ exec (.dmBurst false) s =
          .next (replied { flush s with bstate := .reset }
            (okWord true false false false false false 0 0 0)) := by
  constructor
  · show execDmBurst true s = _
    unfold execDmBurst
    rw [h]
    exact respond_data_eq_replied 1#32 s
  · show execDmBurst false s = _
    unfold execDmBurst
    rw [h]
    exact respond_eq_replied _ _ rfl

end

/-! ### The checks and the gate of DM.STEP (R190, R191) -/

section

variable {s : State} (x : Sample)

theorem execDmStep_clNotReady (hcl : s.clRdy = false) :
    execDmStep x s = raise (opcode (.dmStep x)) .notReady .cl 0#8 s := by
  simp only [execDmStep, hcl, if_true]

theorem execDmStep_elNotReady (hcl : s.clRdy = true) (hel : s.elRdy = false) :
    execDmStep x s = raise (opcode (.dmStep x)) .notReady .el 0#8 s := by
  simp only [execDmStep, hcl, hel, if_true, reduceCtorEq, if_false]

theorem execDmStep_sdNotReady (hcl : s.clRdy = true) (hel : s.elRdy = true)
    (hsd : s.sdRdy = false) :
    execDmStep x s = raise (opcode (.dmStep x)) .notReady .sd 0#8 s := by
  simp only [execDmStep, hcl, hel, hsd, if_true, reduceCtorEq, if_false]

theorem execDmStep_ddNotReady (hcl : s.clRdy = true) (hel : s.elRdy = true)
    (hsd : s.sdRdy = true) (hdd : s.ddRdy = false) :
    execDmStep x s = raise (opcode (.dmStep x)) .notReady .dd 0#8 s := by
  simp only [execDmStep, hcl, hel, hsd, hdd, if_true, reduceCtorEq, if_false]

/-- What the four READY checks let through meets the check of DM_ELGSRC, in either burst state. -/
theorem execDmStep_badSource (hcl : s.clRdy = true) (hel : s.elRdy = true)
    (hsd : s.sdRdy = true) (hdd : s.ddRdy = true) (hsrc : 1 < s.cfg.dmElgSrc.toNat) :
    execDmStep x s = raise (opcode (.dmStep x)) .paramError .dm 1#8 s := by
  simp only [execDmStep, hcl, hel, hsd, hdd, hsrc, if_true, reduceCtorEq, if_false]

/-- The gate comes after every check and before the soundness of any unit is looked at. -/
theorem execDmStep_gated (hcl : s.clRdy = true) (hel : s.elRdy = true)
    (hsd : s.sdRdy = true) (hdd : s.ddRdy = true) (hsrc : s.cfg.dmElgSrc.toNat ≤ 1)
    (hb : s.bstate = .reset) : execDmStep x s = respond { gated := true } s := by
  simp only [execDmStep, hcl, hel, hsd, hdd, hb, not_lt.2 hsrc, reduceCtorEq, if_false]

theorem execDmStep_ungated (hcl : s.clRdy = true) (hel : s.elRdy = true)
    (hsd : s.sdRdy = true) (hdd : s.ddRdy = true) (hs : readySound s)
    (hsrc : s.cfg.dmElgSrc.toNat ≤ 1) (hb : s.bstate = .demodulating) :
    execDmStep x s = respond (dmStepResponse s (sampleOf x)) (dmStepState s (sampleOf x)) := by
  obtain ⟨hscl, hsel, hssd, hsdd⟩ := hs
  rw [execDmStep, if_neg (by simp [hcl]), if_neg (by simp [hel]), if_neg (by simp [hsd]),
    if_neg (by simp [hdd]), if_neg (not_lt.2 hsrc), hb]
  show (if ¬ clSound s then _ else _) = _
  rw [if_neg (not_not_intro (hscl hcl)), if_neg (not_not_intro (hsel hel)),
    if_neg (not_not_intro (hssd hsd)), if_neg (not_not_intro (hsdd hdd))]

end

/-! ### The operands the unit commands take from RES_IQ (R194) -/

theorem sampleOf_hi16_clStep (s : State) (x : Int) :
    sampleOf (hi16 (clStepState s x).res.iq) = (clOut s x).i :=
  hi16_pair16 _ (clOut_i_range s x)

theorem sampleOf_lo16_clStep (s : State) (x : Int) :
    sampleOf (lo16 (clStepState s x).res.iq) = (clOut s x).q :=
  lo16_pair16 _ (clOut_q_range s x)

theorem sampleOf_elgOperand (s : State) (x : Int) :
    sampleOf (if s.cfg.dmElgSrc.toNat = 1 then lo16 (clStepState s x).res.iq
      else hi16 (clStepState s x).res.iq) = elgInput s.cfg (clOut s x) := by
  rw [apply_ite sampleOf, sampleOf_lo16_clStep, sampleOf_hi16_clStep]
  rfl

/-- A delayed value is an entry of a buffer, so its 16-bit pattern loses nothing. -/
theorem sampleOf_sdOut (sd : SdState) (b : Buffer) :
    sampleOf (BitVec.ofInt 16 (sdOut sd b)) = sdOut sd b := by
  rw [sdOut_eq_toInt, BitVec.ofInt_toInt]
  rfl

/-! ### The unit commands, one after the other (R190)

Each is run in the state the one before it left, whatever stands at the ports by then: no unit reads
LASTERR or the ports (`withPorts`). -/

/-- What SD.DELAY on I and on Q leave: the state after both buffers, before RES_DIQ is written. -/
def dmUnitsDelayed (s : State) (x : Int) : State :=
  sdDelayState (dmDelayIState s x) .sdb1 (clOut s x).q

/-- The state after the decision stage: what all the unit commands of an ungated DM.STEP leave. -/
def dmUnitsState (s : State) (x : Int) : State :=
  decisionState (dmUnitsDelayed s x) (dmTrig s x) (dmDelayedI s x) (dmDelayedQ s x)

@[simp] theorem dmUnitsDelayed_cfg (s : State) (x : Int) : (dmUnitsDelayed s x).cfg = s.cfg := by
  simp [dmUnitsDelayed, dmDelayIState, dmLoopState]
@[simp] theorem dmUnitsDelayed_ddRdy (s : State) (x : Int) :
    (dmUnitsDelayed s x).ddRdy = s.ddRdy := by
  simp [dmUnitsDelayed, dmDelayIState, dmLoopState]
@[simp] theorem dmUnitsDelayed_dd (s : State) (x : Int) : (dmUnitsDelayed s x).dd = s.dd := by
  simp [dmUnitsDelayed, dmDelayIState, dmLoopState]
@[simp] theorem dmUnitsDelayed_res (s : State) (x : Int) :
    (dmUnitsDelayed s x).res = (clStepState s x).res := by
  simp [dmUnitsDelayed, dmDelayIState, dmLoopState]
@[simp] theorem dmUnitsDelayed_lastErr (s : State) (x : Int) :
    (dmUnitsDelayed s x).lastErr = s.lastErr := by
  simp [dmUnitsDelayed, dmDelayIState, dmLoopState]
@[simp] theorem dmUnitsDelayed_cmdPort (s : State) (x : Int) :
    (dmUnitsDelayed s x).cmdPort = s.cmdPort := by
  simp [dmUnitsDelayed, dmDelayIState, dmLoopState]
@[simp] theorem dmUnitsDelayed_rspPort (s : State) (x : Int) :
    (dmUnitsDelayed s x).rspPort = s.rspPort := by
  simp [dmUnitsDelayed, dmDelayIState, dmLoopState]

theorem respond_withPorts (r : Response) (s : State) (e : Reg) (c : List PortInput)
    (p : List Word) :
    respond r (withPorts s e c p) = .next (withPorts s e c (p ++ [packResponse r])) := rfl

section

variable {s : State} {x : Int} {y : Sample} (e : Reg) (c : List PortInput) (p : List Word)

theorem exec_clStep_first (x : Sample) (hr : s.clRdy = true) (hs : clSound s) :
    ∃ r, exec (.clStep x) s =
      .next (withPorts (clStepState s (sampleOf x)) s.lastErr s.cmdPort (s.rspPort ++ [r])) :=
  ⟨_, execClStep_ready x hr hs⟩

theorem exec_elStep_after_clStep (hr : s.elRdy = true) (hs : elSound s)
    (hy : sampleOf y = elgInput s.cfg (clOut s x)) :
    ∃ r, exec (.elStep y) (withPorts (clStepState s x) e c p) =
        .next (withPorts (dmLoopState s x) e c (p ++ [r]))
      ∧ r.getLsbD 48 = dmTrig s x := by
  refine ⟨packResponse { trig := dmTrig s x }, ?_, packResponse_trig _⟩
  refine (execElStep_ready (s := withPorts (clStepState s x) e c p) y hr hs).trans ?_
  rw [elOut_withPorts, elStepState_withPorts, respond_withPorts, hy]
  rfl

theorem exec_sdDelay_withPorts (b : Buffer) (hr : s.sdRdy = true) (hs : sdSound s)
    (hy : sampleOf y = x) :
    ∃ r, exec (.sdDelay b y) (withPorts s e c p) =
        .next (withPorts (sdDelayState s b x) e c (p ++ [r]))
      ∧ r.extractLsb' 0 16 = BitVec.ofInt 16 (sdOut s.sd b) := by
  subst hy
  exact ⟨_, execSdDelay_ready (s := withPorts s e c p) b y hr hs, packResponse_data16 _⟩

theorem exec_sdDelay_on_i (hr : s.sdRdy = true) (hs : sdSound s)
    (hy : sampleOf y = (clOut s x).i) :
    ∃ r, exec (.sdDelay .sdb0 y) (withPorts (dmLoopState s x) e c p) =
        .next (withPorts (dmDelayIState s x) e c (p ++ [r]))
      ∧ r.extractLsb' 0 16 = BitVec.ofInt 16 (dmDelayedI s x) :=
  exec_sdDelay_withPorts (s := dmLoopState s x) e c p .sdb0 hr hs hy

/-- The push of I leaves SD sound, so the push of Q runs. -/
theorem exec_sdDelay_on_q (hr : s.sdRdy = true) (hs : sdSound s)
    (hy : sampleOf y = (clOut s x).q) :
    ∃ r, exec (.sdDelay .sdb1 y) (withPorts (dmDelayIState s x) e c p) =
        .next (withPorts (dmUnitsDelayed s x) e c (p ++ [r]))
      ∧ r.extractLsb' 0 16 = BitVec.ofInt 16 (dmDelayedQ s x) := by
  obtain ⟨hlegal, hinside⟩ := hs
  have hs' : sdSound (dmDelayIState s x) :=
    ⟨hlegal, sdPush_inside .sdb0 (clOut s x).i hlegal.2 hinside⟩
  exact exec_sdDelay_withPorts (s := dmDelayIState s x) e c p .sdb1 hr hs' hy

end

/-! ### The decision stage as DD.SLICE and DD.DIFF (R190) -/

/-- The decision stage of DM.STEP, told in unit commands: from `before`, on a trigger DD.SLICE runs
on the pair, and on an accepted decision DD.DIFF on its index; `after` is the state they leave and
`f` holds what they answer. -/
def DecisionByUnits (trig : Bool) (dI dQ : Sample) (before after : State) (f : DecisionFields) :
    Prop :=
  (trig = false →
    after = before ∧ f.acc = false ∧ f.rej = false ∧ f.idx.toNat = 0xFF ∧ f.sym.toNat = 0)
  ∧ (trig = true → ∃ s5 r5, exec (.ddSlice dI dQ) before = .next s5
      ∧ s5.rspPort = before.rspPort ++ [r5]
      ∧ f.acc = r5.getLsbD 49 ∧ f.rej = r5.getLsbD 50 ∧ f.idx.toNat = r5.toNat / 2 ^ 32 % 2 ^ 8
      ∧ (f.acc = false → after = s5 ∧ f.sym.toNat = 0)
      ∧ (f.acc = true → ∃ r6, exec (.ddDiff (BitVec.ofNat 6 f.idx.toNat)) s5 = .next after
          ∧ after.rspPort = s5.rspPort ++ [r6] ∧ f.sym.toNat = r6.toNat / 2 ^ 40 % 2 ^ 8))

section

variable {s : State} {p q : Int} {k : Nat} (e : Reg) (c : List PortInput) (rsp : List Word)

/-- An index the slicer gives is below M, so DD.DIFF takes it and 6 bits hold it (R172, R25). -/
theorem sliceOut_lt (hs : ddSound s) (hk : sliceOut s p q = some k) :
    k < s.cfg.ddM.toNat ∧ k < 64 := by
  obtain ⟨⟨hpos, hcap⟩, -⟩ := hs
  unfold sliceOut at hk
  split at hk
  · cases hk
    have hlt := nearest_lt s.host.const p q hpos
    exact ⟨hlt, lt_of_lt_of_le hlt hcap⟩
  · cases hk

theorem exec_ddSlice_withPorts (dI dQ : Sample) (hr : s.ddRdy = true) (hs : ddSound s) :
    exec (.ddSlice dI dQ) (withPorts s e c rsp) =
      .next (withPorts (sliceState s (sampleOf dI) (sampleOf dQ)) e c
        (rsp ++ [packResponse (sliceResponse (sliceOut s (sampleOf dI) (sampleOf dQ)))])) := by
  refine (execDdSlice_ready (s := withPorts s e c rsp) dI dQ hr hs).trans ?_
  rw [sliceOut_withPorts, sliceState_withPorts, respond_withPorts]

theorem exec_ddDiff_withPorts (hr : s.ddRdy = true) (hs : ddSound s) (hM : k < s.cfg.ddM.toNat)
    (hk : k < 64) :
    exec (.ddDiff (BitVec.ofNat 6 k)) (withPorts s e c rsp) =
      .next (withPorts (diffState s k) e c (rsp ++ [packResponse { sym := diffOut s k }])) := by
  have hcur : (BitVec.ofNat 6 k).toNat = k := by
    rw [BitVec.toNat_ofNat, Nat.mod_eq_of_lt hk]
  refine (execDdDiff_ready (s := withPorts s e c rsp) (BitVec.ofNat 6 k) hr hs
    (by rw [hcur]; exact hM)).trans ?_
  rw [hcur, diffOut_withPorts, diffState_withPorts, respond_withPorts]

/-- A rejected pair: DD.SLICE alone, and its response holds the decision fields. -/
theorem decisionByUnits_rejected {dI dQ : Sample} (hr : s.ddRdy = true) (hs : ddSound s)
    (hk : sliceOut s (sampleOf dI) (sampleOf dQ) = none) :
    DecisionByUnits true dI dQ (withPorts s e c rsp)
      (withPorts (sliceState s (sampleOf dI) (sampleOf dQ)) e c
        (rsp ++ [packResponse (sliceResponse none)]))
      { acc := false, rej := true, idx := 0xFF#8, sym := 0#8 } := by
  have hslice := exec_ddSlice_withPorts e c rsp dI dQ hr hs
  rw [hk] at hslice
  exact ⟨nofun, fun _ => ⟨_, _, hslice, rfl, (packResponse_acc (sliceResponse none)).symm,
    (packResponse_rej (sliceResponse none)).symm, (packResponse_idx (sliceResponse none)).symm,
    fun _ => ⟨rfl, rfl⟩, nofun⟩⟩

/-- An accepted pair: DD.SLICE, then DD.DIFF on the index it answered. -/
theorem decisionByUnits_accepted {dI dQ : Sample} (hr : s.ddRdy = true) (hs : ddSound s)
    (hk : sliceOut s (sampleOf dI) (sampleOf dQ) = some k) :
    DecisionByUnits true dI dQ (withPorts s e c rsp)
      (withPorts (diffState (sliceState s (sampleOf dI) (sampleOf dQ)) k) e c
        (rsp ++ [packResponse (sliceResponse (some k))]
          ++ [packResponse { sym := diffOut (sliceState s (sampleOf dI) (sampleOf dQ)) k }]))
      { acc := true, rej := false, idx := BitVec.ofNat 8 k,
        sym := diffOut (sliceState s (sampleOf dI) (sampleOf dQ)) k } := by
  obtain ⟨hM, h64⟩ := sliceOut_lt hs hk
  have hidx : (BitVec.ofNat 8 k).toNat = k := by
    rw [BitVec.toNat_ofNat, Nat.mod_eq_of_lt (by omega)]
  have hslice := exec_ddSlice_withPorts e c rsp dI dQ hr hs
  rw [hk] at hslice
  have hdiff := exec_ddDiff_withPorts (s := sliceState s (sampleOf dI) (sampleOf dQ)) e c
    (rsp ++ [packResponse (sliceResponse (some k))]) (by rwa [sliceState_ddRdy])
    (by rwa [ddSound, sliceState_cfg, sliceState_prev]) (by rwa [sliceState_cfg]) h64
  exact ⟨nofun, fun _ => ⟨_, _, hslice, rfl, (packResponse_acc (sliceResponse (some k))).symm,
    (packResponse_rej (sliceResponse (some k))).symm,
    (packResponse_idx (sliceResponse (some k))).symm, nofun,
    fun _ => ⟨_, by rw [hidx]; exact hdiff, rfl, by rw [packResponse_sym]⟩⟩⟩

/-- The decision stage of a READY, sound DD is its two commands, up to the responses at the port. -/
theorem decisionByUnits (trig : Bool) (dI dQ : Sample) (hr : s.ddRdy = true) (hs : ddSound s) :
    ∃ rsp', DecisionByUnits trig dI dQ (withPorts s e c rsp)
      (withPorts (decisionState s trig (sampleOf dI) (sampleOf dQ)) e c rsp')
      (decisionFields (sliceState s (sampleOf dI) (sampleOf dQ)) trig
        (sliceOut s (sampleOf dI) (sampleOf dQ))) := by
  cases trig with
  | false => exact ⟨rsp, fun _ => ⟨rfl, rfl, rfl, rfl, rfl⟩, nofun⟩
  | true =>
    unfold decisionState decisionFields
    rw [if_pos rfl, if_pos rfl]
    cases hk : sliceOut s (sampleOf dI) (sampleOf dQ) with
    | none => exact ⟨_, decisionByUnits_rejected e c rsp hr hs hk⟩
    | some k => exact ⟨_, decisionByUnits_accepted e c rsp hr hs hk⟩

end

/-! ### What DM.STEP writes beside the units: RES_DIQ and RES_DEC (R37) -/

theorem decisionState_withDiq (s : State) (d : Reg) (trig : Bool) (p q : Int) :
    decisionState (withDiq s d) trig p q = withDiq (decisionState s trig p q) d := by
  unfold decisionState
  rw [sliceOut_withDiq, sliceState_withDiq]
  split
  · cases sliceOut s p q <;> rfl
  · rfl

theorem decisionFields_withDiq (s : State) (d : Reg) (trig : Bool) (r : Option Nat) :
    decisionFields (withDiq s d) trig r = decisionFields s trig r := rfl

/-- The decision does not read RES_DIQ, so it is the one on the state the unit commands left. -/
theorem dmDecision_eq (s : State) (x : Int) :
    dmDecision s x =
      decisionFields (sliceState (dmUnitsDelayed s x) (dmDelayedI s x) (dmDelayedQ s x))
        (dmTrig s x) (sliceOut (dmUnitsDelayed s x) (dmDelayedI s x) (dmDelayedQ s x)) := by
  rw [dmDecision, dmDelayState_eq_withDiq, ← dmUnitsDelayed, sliceState_withDiq, sliceOut_withDiq,
    decisionFields_withDiq]

/-- The decision stage of DM.STEP is DD's two commands on the delayed pair. -/
theorem dmDecisionByUnits (s : State) (x : Int) (e : Reg) (c : List PortInput) (rsp : List Word)
    (hr : s.ddRdy = true) (hs : ddSound s) :
    ∃ rsp', DecisionByUnits (dmTrig s x) (BitVec.ofInt 16 (dmDelayedI s x))
      (BitVec.ofInt 16 (dmDelayedQ s x)) (withPorts (dmUnitsDelayed s x) e c rsp)
      (withPorts (dmUnitsState s x) e c rsp') (dmDecision s x) := by
  have h := decisionByUnits (s := dmUnitsDelayed s x) e c rsp (dmTrig s x)
    (BitVec.ofInt 16 (dmDelayedI s x)) (BitVec.ofInt 16 (dmDelayedQ s x))
    (by rwa [dmUnitsDelayed_ddRdy])
    (ddSound_congr (dmUnitsDelayed_dd s x) (dmUnitsDelayed_cfg s x) hs)
  have hI : sampleOf (BitVec.ofInt 16 (dmDelayedI s x)) = dmDelayedI s x := sampleOf_sdOut _ _
  have hQ : sampleOf (BitVec.ofInt 16 (dmDelayedQ s x)) = dmDelayedQ s x := sampleOf_sdOut _ _
  rwa [hI, hQ, ← dmDecision_eq] at h

/-- The decision stage writes neither LASTERR nor the ports. -/
theorem dmUnitsState_ports (s : State) (x : Int) :
    dmUnitsState s x = withPorts (dmUnitsState s x) s.lastErr s.cmdPort s.rspPort := by
  have herr : (dmUnitsState s x).lastErr = s.lastErr := by simp [dmUnitsState]
  have hcmd : (dmUnitsState s x).cmdPort = s.cmdPort := by simp [dmUnitsState]
  have hrsp : (dmUnitsState s x).rspPort = s.rspPort := by simp [dmUnitsState]
  rw [← herr, ← hcmd, ← hrsp]
  rfl

/-- DM.STEP leaves what the unit commands leave, whatever they answered at the port, with all three
result registers written and its own response still to come. -/
theorem dmStepState_eq_units (s : State) (x : Int) (rsp : List Word) :
    dmStepState s x =
      { withPorts (dmUnitsState s x) s.lastErr s.cmdPort rsp with
        res :=
          { iq := (clStepState s x).res.iq
            diq := pair16 (dmDelayedI s x) (dmDelayedQ s x)
            dec := dmDecWord s x }
        rspPort := s.rspPort } := by
  have hiq : (dmUnitsState s x).res.iq = (clStepState s x).res.iq := by
    rw [dmUnitsState, decisionState_res, dmUnitsDelayed_res]
  rw [dmStepState, dmDelayState_eq_withDiq, ← dmUnitsDelayed, decisionState_withDiq, ← dmUnitsState,
    ← hiq, dmUnitsState_ports]
  rfl

end Sys2Proof.Machine

namespace Sys2Proof.Proofs

open Sys2Proof.Machine Sys2Proof.Statements

/-- Settles O53: each unit command runs in the state the one before it left, and what DM.STEP
answers and leaves is read off the same stages. -/
theorem dmStepIsTheUnitsInOrder : Obligations.DmStepIsTheUnitsInOrder := by
  intro s x hcl hel hsd hdd hs hsrc hb
  have ⟨hscl, hsel, hssd, hsdd⟩ := hs
  obtain ⟨r1, hclStep⟩ := exec_clStep_first x hcl (hscl hcl)
  obtain ⟨r2, helStep, htrig⟩ := exec_elStep_after_clStep s.lastErr s.cmdPort (s.rspPort ++ [r1])
    hel (hsel hel) (sampleOf_elgOperand s (sampleOf x))
  obtain ⟨r3, hdelayI, hdI⟩ := exec_sdDelay_on_i s.lastErr s.cmdPort (s.rspPort ++ [r1] ++ [r2])
    hsd (hssd hsd) (sampleOf_hi16_clStep s (sampleOf x))
  obtain ⟨r4, hdelayQ, hdQ⟩ := exec_sdDelay_on_q s.lastErr s.cmdPort
    (s.rspPort ++ [r1] ++ [r2] ++ [r3]) hsd (hssd hsd) (sampleOf_lo16_clStep s (sampleOf x))
  obtain ⟨rsp, hidle, hdecided⟩ := dmDecisionByUnits s (sampleOf x) s.lastErr s.cmdPort
    (s.rspPort ++ [r1] ++ [r2] ++ [r3] ++ [r4]) hdd (hsdd hdd)
  refine ⟨_, _, _, _, withPorts (dmUnitsState s (sampleOf x)) s.lastErr s.cmdPort rsp, r2, r3, r4,
    (dmDecision s (sampleOf x)).acc, (dmDecision s (sampleOf x)).rej,
    (dmDecision s (sampleOf x)).idx.toNat, (dmDecision s (sampleOf x)).sym.toNat,
    hclStep, helStep, rfl, hdelayI, rfl, hdelayQ, rfl, ?_⟩
  rw [htrig, hdI, hdQ]
  refine ⟨hidle, hdecided, (execDmStep_ungated x hcl hel hsd hdd hs hsrc hb).trans ?_⟩
  rw [respond_eq_replied _ _ rfl, dmStepState_eq_units s _ rsp, dmDecWord, resDecWord_eq]
  rfl

/-- Settles O52: the checks in their order, then the gate. -/
theorem dmStepChecksThenGate : Obligations.DmStepChecksThenGate := by
  intro s x
  refine ⟨encode_sampleCommand rfl rfl rfl, fun hcl => ?cl, fun hcl hel => ?el,
    fun hcl hel hsd => ?sd, fun hcl hel hsd hdd => ?dd, fun hcl hel hsd hdd hsrc => ?source,
    fun hcl hel hsd hdd hsrc hb => ?gate⟩
  case cl => exact (execDmStep_clNotReady x hcl).trans (raise_eq_failed _ _ _ _ s)
  case el => exact (execDmStep_elNotReady x hcl hel).trans (raise_eq_failed _ _ _ _ s)
  case sd => exact (execDmStep_sdNotReady x hcl hel hsd).trans (raise_eq_failed _ _ _ _ s)
  case dd => exact (execDmStep_ddNotReady x hcl hel hsd hdd).trans (raise_eq_failed _ _ _ _ s)
  case source =>
    exact (execDmStep_badSource x hcl hel hsd hdd hsrc).trans (raise_eq_failed _ _ _ _ s)
  case gate => exact (execDmStep_gated x hcl hel hsd hdd hsrc hb).trans (respond_eq_replied _ s rfl)

/-- Settles O54: the four cases of the burst state machine, by the state before. -/
theorem dmBurstFourCases : Obligations.DmBurstFourCases := by
  refine ⟨fun p => ?word, fun s => ⟨exec_dmBurst_of_reset, exec_dmBurst_of_demodulating⟩⟩
  case word => cases p <;> rfl

/-- Settles O55: DM.RESET is the flush and RESET, in either burst state. -/
theorem dmResetFlushes : Obligations.DmResetFlushes :=
  ⟨rfl, fun s => respond_nil_eq_replied { flush s with bstate := .reset }⟩

end Sys2Proof.Proofs
end

section
/-! PROOFS. Errors are precise (spec/60_exceptions.md R211), the block holds its state between commands
(R225), and no state that 10_state.md R39 allows stops it, in one step or in a run (R219, R221). -/

namespace Sys2Proof.Machine

section

variable {i : Instr} {s t : State}

/-! ### A command whose response holds an error code -/

/-- The response of a completing command has ERR = 0, so an error code leaves only the other end. -/
theorem exec_failed {w : Word} (h : exec i s = .next t) (hw : t.rspPort = s.rspPort ++ [w])
    (herr : w.toNat / 2 ^ 60 ≠ 0) :
    ∃ e v c, t = send { err := e }
      { initCleared i s with lastErr := lastErrWord (opcode i) e v c } := by
  cases exec_ends h with
  | failed _ => exact ⟨_, _, _, rfl⟩
  | @completed u r hok hc =>
    obtain ⟨-, -, hrsp⟩ := hc.ports_eq
    obtain rfl : packResponse r = w := by simpa [hrsp] using hw
    have hzero : (packResponse r).toNat / 2 ^ 60 = 0 := by rw [packResponse_errField, hok]; rfl
    exact absurd hzero herr

/-! ### The steps that take no word -/

theorem step_of_idle (h : s.cmdPort = []) : step s = .next s := by
  simp [step, h]

theorem step_of_rst {rest : List PortInput} (h : s.cmdPort = .rst :: rest) :
    step s = .next (hardwareReset { s with cmdPort := rest }) := by
  simp [step, h]

/-! ### No step and no run of a sound block stops -/

/-- R219: the idle step and the reset pulse always answer, a word is answered by a sound block. -/
theorem step_answers_of_readySound (hs : readySound s) : ∃ t, step s = .next t := by
  cases hport : s.cmdPort with
  | nil => exact ⟨s, step_of_idle hport⟩
  | cons input rest =>
    cases input with
    | rst => exact ⟨_, step_of_rst hport⟩
    | command w =>
      have hs' : readySound { s with cmdPort := rest } := hs
      obtain ⟨t, -, ht, -, -⟩ := runWord_of_readySound w hs'
      exact ⟨t, (step_of_command hport).trans ht⟩

/-- A property that lets every step answer, and that every step keeps, lets every run answer. -/
theorem safeRun_of_invariant {P : State → Prop} (hanswers : ∀ s, P s → ∃ t, step s = .next t)
    (hkeeps : ∀ s t, P s → step s = .next t → P t) (n : Nat) (hs : P s) : safeRun n s := by
  induction n generalizing s with
  | zero => exact ⟨s, rfl⟩
  | succ n ih =>
    obtain ⟨u, hu⟩ := hanswers s hs
    obtain ⟨t, ht⟩ := ih (hkeeps s u hs hu)
    exact ⟨t, (run_of_next n hu).trans ht⟩

theorem safeRun_of_readySound (n : Nat) (hs : readySound s) : safeRun n s :=
  safeRun_of_invariant (fun _ => step_answers_of_readySound) (fun _ _ => readySound_step) n hs

end

end Sys2Proof.Machine

namespace Sys2Proof.Proofs

open Sys2Proof.Machine

/-- Settles O13: the failing end of a command writes LASTERR and the response over the state in which
it raises, and that state differs from the one before in an INIT's own READY flag alone. -/
theorem failingCommandsArePrecise : Obligations.FailingCommandsArePrecise := by
  intro i s t w h hw herr
  obtain ⟨e, v, c, rfl⟩ := exec_failed h hw herr
  rfl

/-- Settles O21: the only fault is that of a READY unit that is not sound. -/
theorem soundBlockNeverStops : Obligations.SoundBlockNeverStops := fun _ hs =>
  step_answers_of_readySound hs

/-- Settles O23: soundness of the READY units reads no port, so it holds at reset whatever inputs
wait, and every step keeps it. -/
theorem noRunFromResetStops : Obligations.NoRunFromResetStops := by
  intro inputs n
  have hs : readySound (afterResetWith inputs) := readySound_reset
  exact safeRun_of_readySound n hs

/-- Settles O10: the idle step answers the state it is given. -/
theorem idleBlockHoldsItsState : Obligations.IdleBlockHoldsItsState := fun _ hport =>
  step_of_idle hport

end Sys2Proof.Proofs
end

section
/-! PROOFS. Reset and hazards (spec/70_reset_and_hazards.md): no command but RDREG LASTERR reads LASTERR, so
two runs that differ in it alone agree in everything else (R241); DM.RESET of a block whose four units are
READY is a fresh block after the four INIT commands (R241); and the reset input (R240). -/

namespace Sys2Proof.Machine

open Sys2Proof.Statements

/-! ### Another value of LASTERR -/

/-- `s` with another value in LASTERR, the ports as they are. -/
def withLastErr (s : State) (e : Reg) : State := withPorts s e s.cmdPort s.rspPort

section

variable (s : State) (e : Reg)

theorem withLastErr_eq : withLastErr s e = { s with lastErr := e } := rfl

@[simp] theorem withLastErr_cfg : (withLastErr s e).cfg = s.cfg := rfl
@[simp] theorem withLastErr_bstate : (withLastErr s e).bstate = s.bstate := rfl

theorem clearReady_withLastErr (v : UnitId) :
    clearReady v (withLastErr s e) = withLastErr (clearReady v s) e := by
  cases v <;> rfl

theorem entryWrite_withLastErr (t : TableId) (k : Nat) (d : Reg) :
    entryWrite (withLastErr s e) t k d = withLastErr (entryWrite s t k d) e := by
  cases t <;> rfl

theorem entryRead_withLastErr (t : TableId) (k : Nat) :
    entryRead (withLastErr s e) t k = entryRead s t k := by
  cases t <;> rfl

theorem sliceState_withLastErr (p q : Int) :
    sliceState (withLastErr s e) p q = withLastErr (sliceState s p q) e := by
  rw [withLastErr, sliceState_withPorts, withLastErr, sliceState_cmdPort, sliceState_rspPort]

/-- LASTERR is the one register of R25 and R38 that shows it. -/
theorem regRead_withLastErr {n : BitVec 8} (hn : n ≠ 0x41#8) :
    regRead (withLastErr s e) n = regRead s n := by
  unfold regRead
  cases configRegOf n with
  | some r => rfl
  | none =>
    cases hr : statusRegOf n with
    | none => rfl
    | some r =>
      cases r with
      | lastErr => exact absurd (statusRegOf_eq_some_iff.1 hr) hn
      | _ => rfl

end

/-! ### An ungated DM.STEP reads neither LASTERR nor the ports -/

section

variable (s : State) (e : Reg) (c : List PortInput) (r : List Word)

theorem dmUnitsDelayed_withPorts (x : Int) :
    dmUnitsDelayed (withPorts s e c r) x = withPorts (dmUnitsDelayed s x) e c r := by
  rw [dmUnitsDelayed, dmDelayIState_withPorts, clOut_withPorts, sdDelayState_withPorts,
    dmUnitsDelayed]

theorem decisionState_withPorts (trig : Bool) (p q : Int) :
    decisionState (withPorts s e c r) trig p q = withPorts (decisionState s trig p q) e c r := by
  unfold decisionState
  rw [sliceOut_withPorts, sliceState_withPorts]
  split
  · cases sliceOut s p q <;> rfl
  · rfl

theorem dmUnitsState_withPorts (x : Int) :
    dmUnitsState (withPorts s e c r) x = withPorts (dmUnitsState s x) e c r := by
  rw [dmUnitsState, dmUnitsDelayed_withPorts, dmTrig_withPorts, dmDelayedI_withPorts,
    dmDelayedQ_withPorts, decisionState_withPorts, dmUnitsState]

@[simp] theorem dmDecision_withPorts (x : Int) :
    dmDecision (withPorts s e c r) x = dmDecision s x := by
  rw [dmDecision_eq, dmDecision_eq, dmUnitsDelayed_withPorts, dmTrig_withPorts,
    dmDelayedI_withPorts, dmDelayedQ_withPorts, sliceState_withPorts, sliceOut_withPorts]
  rfl

@[simp] theorem dmDecWord_withPorts (x : Int) :
    dmDecWord (withPorts s e c r) x = dmDecWord s x := by
  rw [dmDecWord, dmTrig_withPorts, dmDecision_withPorts, dmDecWord]

theorem dmStepResponse_withPorts (x : Int) :
    dmStepResponse (withPorts s e c r) x = dmStepResponse s x := by
  rw [dmStepResponse, dmTrig_withPorts, dmDecision_withPorts, dmDelayedI_withPorts,
    dmDelayedQ_withPorts]
  rfl

theorem dmStepState_withPorts (x : Int) :
    dmStepState (withPorts s e c r) x = withPorts (dmStepState s x) e c r := by
  rw [dmStepState_eq_units _ x r, dmStepState_eq_units s x r, dmUnitsState_withPorts,
    clStepState_withPorts, dmDelayedI_withPorts, dmDelayedQ_withPorts, dmDecWord_withPorts]
  rfl

end

theorem dmStepState_withLastErr (s : State) (e : Reg) (x : Int) :
    dmStepState (withLastErr s e) x = withLastErr (dmStepState s x) e := by
  rw [withLastErr, dmStepState_withPorts, dmStepState_frame]
  rfl

/-! ### Outcomes that agree but for LASTERR -/

section

variable {a a' b b' : Result}

theorem sameButLastErr_refl (a : Result) : sameButLastErr a a := by
  cases a <;> rfl

/-- Two such outcomes are next states that differ in LASTERR alone, or one and the same stop. -/
theorem sameButLastErr_cases (h : sameButLastErr a a') :
    (∃ t e, a = .next t ∧ a' = .next (withLastErr t e)) ∨ (a' = a ∧ ∀ t, a ≠ .next t) := by
  cases a with
  | next t =>
    cases a' with
    | next t' =>
      refine .inl ⟨t, t'.lastErr, rfl, ?_⟩
      have ht : { t' with lastErr := t.lastErr } = t := h
      rw [← ht]
      rfl
    | fault _ | refused _ => exact h.elim
  | fault f =>
    cases a' with
    | fault f' => exact .inr ⟨congrArg _ (Eq.symm h), fun _ => nofun⟩
    | next _ | refused _ => exact h.elim
  | refused r =>
    cases a' with
    | refused r' => exact .inr ⟨congrArg _ (Eq.symm h), fun _ => nofun⟩
    | next _ | fault _ => exact h.elim

theorem sameButLastErr_ite {p : Prop} [Decidable p] (ha : sameButLastErr a a')
    (hb : sameButLastErr b b') :
    sameButLastErr (if p then a else b) (if p then a' else b') := by
  split
  · exact ha
  · exact hb

theorem sameButLastErr_respond (r : Response) {u u' : State} {e : Reg}
    (h : u' = withLastErr u e) : sameButLastErr (respond r u) (respond r u') := by
  subst h
  rfl

/-- A failing command records its own error over whatever LASTERR held. -/
theorem sameButLastErr_raise (op : BitVec 8) (k : ErrorCode) (v : UnitId) (c : BitVec 8) (u : State)
    (e : Reg) : sameButLastErr (raise op k v c u) (raise op k v c (withLastErr u e)) := rfl

end

/-! ### Every command but RDREG LASTERR (R241) -/

section

variable (s : State) (e : Reg)

theorem execWrreg_sameButLastErr (n : BitVec 8) (v : Reg) :
    sameButLastErr (execWrreg n v s) (execWrreg n v (withLastErr s e)) := by
  unfold execWrreg
  cases configRegOf n with
  | none => exact sameButLastErr_raise _ _ _ _ s e
  | some r =>
    have hcleared := clearReady_withLastErr { s with cfg := cfgWrite s.cfg r v } e (ownerOf r)
    exact sameButLastErr_respond _ hcleared

theorem execRdreg_sameButLastErr {n : BitVec 8} (hn : n ≠ 0x41#8) :
    sameButLastErr (execRdreg n s) (execRdreg n (withLastErr s e)) := by
  unfold execRdreg
  rw [regRead_withLastErr s e hn]
  cases regRead s n with
  | none => exact sameButLastErr_raise _ _ _ _ s e
  | some v => exact sameButLastErr_respond _ rfl

theorem execWrtab_sameButLastErr (sel : BitVec 8) (idx : BitVec 16) (v : Reg) :
    sameButLastErr (execWrtab sel idx v s) (execWrtab sel idx v (withLastErr s e)) := by
  unfold execWrtab
  cases tableOf sel with
  | none => exact sameButLastErr_raise _ _ _ _ s e
  | some t =>
    have hstored := sameButLastErr_respond {} (entryWrite_withLastErr s e t idx.toNat v)
    exact sameButLastErr_ite
      (sameButLastErr_ite hstored (sameButLastErr_raise _ _ _ _ s e))
      (sameButLastErr_raise _ _ _ _ s e)

theorem execRdtab_sameButLastErr (sel : BitVec 8) (idx : BitVec 16) :
    sameButLastErr (execRdtab sel idx s) (execRdtab sel idx (withLastErr s e)) := by
  unfold execRdtab
  cases tableOf sel with
  | none => exact sameButLastErr_raise _ _ _ _ s e
  | some t =>
    simp only [entryRead_withLastErr]
    exact sameButLastErr_ite (sameButLastErr_respond _ rfl) (sameButLastErr_raise _ _ _ _ s e)

/-- The checks of an INIT read the configuration registers only. -/
theorem init_sameButLastErr {i : Instr}
    (hi : i = .clInit ∨ i = .elInit ∨ i = .sdInit ∨ i = .ddInit) :
    sameButLastErr (exec i s) (exec i (withLastErr s e)) := by
  obtain rfl | rfl | rfl | rfl := hi
  · rw [exec_clInit, exec_clInit, withLastErr_cfg]
    cases clInitCheck s.cfg <;> rfl
  · rw [exec_elInit, exec_elInit, withLastErr_cfg]
    cases elInitCheck s.cfg <;> rfl
  · rw [exec_sdInit, exec_sdInit, withLastErr_cfg]
    cases sdInitCheck s.cfg <;> rfl
  · rw [exec_ddInit, exec_ddInit, withLastErr_cfg]
    cases ddInitCheck s.cfg <;> rfl

theorem execClStep_sameButLastErr (x : Sample) :
    sameButLastErr (execClStep x s) (execClStep x (withLastErr s e)) :=
  sameButLastErr_ite (sameButLastErr_ite (sameButLastErr_respond _ rfl) rfl)
    (sameButLastErr_raise _ _ _ _ s e)

theorem execElStep_sameButLastErr (x : Sample) :
    sameButLastErr (execElStep x s) (execElStep x (withLastErr s e)) :=
  sameButLastErr_ite (sameButLastErr_ite (sameButLastErr_respond _ rfl) rfl)
    (sameButLastErr_raise _ _ _ _ s e)

theorem execSdDelay_sameButLastErr (b : Buffer) (x : Sample) :
    sameButLastErr (execSdDelay b x s) (execSdDelay b x (withLastErr s e)) :=
  sameButLastErr_ite (sameButLastErr_ite (sameButLastErr_respond _ rfl) rfl)
    (sameButLastErr_raise _ _ _ _ s e)

theorem execDdSlice_sameButLastErr (pi pq : Sample) :
    sameButLastErr (execDdSlice pi pq s) (execDdSlice pi pq (withLastErr s e)) :=
  sameButLastErr_ite
    (sameButLastErr_ite (sameButLastErr_respond _ (sliceState_withLastErr s e _ _)) rfl)
    (sameButLastErr_raise _ _ _ _ s e)

theorem execDdDiff_sameButLastErr (cur : BitVec 6) :
    sameButLastErr (execDdDiff cur s) (execDdDiff cur (withLastErr s e)) :=
  sameButLastErr_ite
    (sameButLastErr_ite (sameButLastErr_ite (sameButLastErr_respond _ rfl) rfl)
      (sameButLastErr_raise _ _ _ _ s e))
    (sameButLastErr_raise _ _ _ _ s e)

theorem execDmStep_sameButLastErr (x : Sample) :
    sameButLastErr (execDmStep x s) (execDmStep x (withLastErr s e)) := by
  have hfails (k : ErrorCode) (v : UnitId) (c : BitVec 8) :=
    sameButLastErr_raise (opcode (.dmStep x)) k v c s e
  refine sameButLastErr_ite (hfails ..) (sameButLastErr_ite (hfails ..) (sameButLastErr_ite
    (hfails ..) (sameButLastErr_ite (hfails ..) (sameButLastErr_ite (hfails ..) ?gate))))
  case gate =>
    rw [withLastErr_bstate]
    cases s.bstate with
    | reset => exact sameButLastErr_respond _ rfl
    | demodulating =>
      rw [withLastErr, dmStepResponse_withPorts, ← withLastErr]
      exact sameButLastErr_ite rfl (sameButLastErr_ite rfl (sameButLastErr_ite rfl
        (sameButLastErr_ite rfl (sameButLastErr_respond _ (dmStepState_withLastErr s e _)))))

theorem execDmBurst_sameButLastErr (p : Bool) :
    sameButLastErr (execDmBurst p s) (execDmBurst p (withLastErr s e)) := by
  unfold execDmBurst
  rw [withLastErr_bstate]
  cases s.bstate <;> cases p <;> exact sameButLastErr_respond _ rfl

theorem exec_sameButLastErr {i : Instr} (hi : i ≠ .rdreg 0x41#8) :
    sameButLastErr (exec i s) (exec i (withLastErr s e)) := by
  cases i with
  | nop | clReset | elReset | sdReset | ddReset | dmReset => exact sameButLastErr_respond _ rfl
  | wrreg n v => exact execWrreg_sameButLastErr s e n v
  | rdreg n => exact execRdreg_sameButLastErr s e fun hn => hi (congrArg _ hn)
  | wrtab sel idx v => exact execWrtab_sameButLastErr s e sel idx v
  | rdtab sel idx => exact execRdtab_sameButLastErr s e sel idx
  | clInit | elInit | sdInit | ddInit => exact init_sameButLastErr s e (by simp)
  | clStep x => exact execClStep_sameButLastErr s e x
  | elStep x => exact execElStep_sameButLastErr s e x
  | sdDelay b x => exact execSdDelay_sameButLastErr s e b x
  | ddSlice pi pq => exact execDdSlice_sameButLastErr s e pi pq
  | ddDiff cur => exact execDdDiff_sameButLastErr s e cur
  | dmStep x => exact execDmStep_sameButLastErr s e x
  | dmBurst p => exact execDmBurst_sameButLastErr s e p

end

/-! ### Every step and every run (R241) -/

/-- No waiting word is RDREG LASTERR. -/
def NoLastErrRead (inputs : List PortInput) : Prop :=
  ∀ w, PortInput.command w ∈ inputs → decode w ≠ .ok (.rdreg 0x41#8)

section

variable {s t : State}

theorem runWord_sameButLastErr {w : Word} (hw : decode w ≠ .ok (.rdreg 0x41#8)) (s : State)
    (e : Reg) :
    sameButLastErr (runWord w s) (runWord w (withLastErr s e)) := by
  unfold runWord
  cases h : decode w with
  | error _ => exact sameButLastErr_raise _ _ _ _ s e
  | ok i => exact exec_sameButLastErr s e fun hi => hw (by rw [h, hi])

theorem step_sameButLastErr (hs : NoLastErrRead s.cmdPort) (e : Reg) :
    sameButLastErr (step s) (step (withLastErr s e)) := by
  cases hport : s.cmdPort with
  | nil =>
    rw [step_of_idle hport, step_of_idle (s := withLastErr s e) hport]
    rfl
  | cons input rest =>
    cases input with
    | rst =>
      rw [step_of_rst hport, step_of_rst (s := withLastErr s e) hport]
      rfl
    | command w =>
      have hw : decode w ≠ .ok (.rdreg 0x41#8) := hs w (by simp [hport])
      rw [step_of_command hport, step_of_command (s := withLastErr s e) hport]
      exact runWord_sameButLastErr hw { s with cmdPort := rest } e

theorem runWord_cmdPort {w : Word} (h : runWord w s = .next t) : t.cmdPort = s.cmdPort := by
  unfold runWord at h
  split at h
  · obtain ⟨-, -, hcmd, -⟩ := exec_response h
    exact hcmd
  · cases h
    rfl

/-- A step takes the oldest input, if one waits. -/
theorem step_cmdPort (h : step s = .next t) : t.cmdPort = s.cmdPort.tail := by
  cases hport : s.cmdPort with
  | nil =>
    cases (step_of_idle hport).symm.trans h
    exact hport
  | cons input rest =>
    cases input with
    | rst =>
      cases (step_of_rst hport).symm.trans h
      rfl
    | command w => exact runWord_cmdPort ((step_of_command hport).symm.trans h)

theorem NoLastErrRead.after_step (hs : NoLastErrRead s.cmdPort) (h : step s = .next t) :
    NoLastErrRead t.cmdPort := by
  rw [step_cmdPort h]
  exact fun w hw => hs w (List.mem_of_mem_tail hw)

theorem run_of_stop (n : Nat) (h : ∀ t, step s ≠ .next t) :
    core.run (n + 1) s = step s := by
  cases hs : step s with
  | next t => exact absurd hs (h t)
  | fault f => exact run_of_fault n hs
  | refused r => exact run_of_refused n hs

/-- Step by step the two runs keep differing in LASTERR alone, or stop alike. -/
theorem run_sameButLastErr (n : Nat) (hs : NoLastErrRead s.cmdPort) (e : Reg) :
    sameButLastErr (core.run n s) (core.run n (withLastErr s e)) := by
  induction n generalizing s e with
  | zero => rfl
  | succ n ih =>
    obtain ⟨t, e', ht, ht'⟩ | ⟨hsame, hstop⟩ := sameButLastErr_cases (step_sameButLastErr hs e)
    · rw [run_of_next n ht, run_of_next n ht']
      exact ih (hs.after_step ht) e'
    · have hstop' : ∀ t, step (withLastErr s e) ≠ .next t := hsame ▸ hstop
      rw [run_of_stop n hstop, run_of_stop n hstop', hsame]
      exact sameButLastErr_refl _

end

/-! ### The INIT commands of a legal configuration (R110, R130, R160, R170) -/

section

variable {s : State}

theorem exec_clInit_legal (h : clLegal s.cfg) :
    exec .clInit s = .next (replied { s with clRdy := true, cl := ClState.zero } (dataWord 0)) := by
  rw [exec_clInit, clInitCheck_eq_none.2 h, clInitResult]

theorem exec_elInit_legal (h : elLegal s.cfg) :
    exec .elInit s =
      .next (replied
        { s with
          elRdy := true, el := ElState.zero, trigLat := BitVec.ofNat 10 (trigLatency s.cfg) }
        (dataWord (trigLatency s.cfg))) := by
  rw [exec_elInit, elInitCheck_eq_none.2 h, elInitResult]

theorem exec_sdInit_legal (h : sdLegal s.cfg) :
    exec .sdInit s = .next (replied { s with sdRdy := true, sd := SdState.zero } (dataWord 0)) := by
  rw [exec_sdInit, sdInitCheck_eq_none.2 h, initResult]

theorem exec_ddInit_legal (h : ddLegal s.cfg) :
    exec .ddInit s = .next (replied { s with ddRdy := true, dd := DdState.zero } (dataWord 0)) := by
  rw [exec_ddInit, ddInitCheck_eq_none.2 h, initResult]

end

/-- What the four INIT commands leave of a reset block with these configuration registers and host
tables, LASTERR and the ports aside: every unit READY and cleared, and the trigger latency computed. -/
def freshBlock (c : ConfigRegs) (h : HostTables) : State :=
  { State.reset with
    cfg := c, host := h, clRdy := true, elRdy := true, sdRdy := true, ddRdy := true
    trigLat := BitVec.ofNat 10 (trigLatency c) }

theorem inits_give_freshBlock {c : ConfigRegs} (h : HostTables) (hcl : clLegal c) (hel : elLegal c)
    (hsd : sdLegal c) (hdd : ddLegal c) :
    ∃ s1 s2 s3 rsp, exec .clInit { State.reset with cfg := c, host := h } = .next s1
      ∧ exec .elInit s1 = .next s2 ∧ exec .sdInit s2 = .next s3
      ∧ exec .ddInit s3 = .next (withPorts (freshBlock c h) 0#32 [] rsp) :=
  ⟨_, _, _, _, exec_clInit_legal hcl, exec_elInit_legal hel, exec_sdInit_legal hsd,
    exec_ddInit_legal hdd⟩

/-- DM.RESET keeps EL_TRIGLAT, which a sound EL holds at the latency that EL.INIT computes. -/
theorem dmReset_gives_freshBlock {s : State} (hcl : s.clRdy = true) (hel : s.elRdy = true)
    (hsd : s.sdRdy = true) (hdd : s.ddRdy = true) (hlat : s.trigLat.toNat = trigLatency s.cfg) :
    ∃ rsp, exec .dmReset s =
      .next (withPorts (freshBlock s.cfg s.host) s.lastErr s.cmdPort rsp) := by
  have htrigLat : s.trigLat = BitVec.ofNat 10 (trigLatency s.cfg) := by
    rw [← hlat, BitVec.ofNat_toNat, BitVec.setWidth_eq]
  have hflushed : { flush s with bstate := .reset } =
      withPorts (freshBlock s.cfg s.host) s.lastErr s.cmdPort s.rspPort := by
    simp only [flush, ddClear, sdClear, elClear, clClear, hcl, hel, hsd, hdd, htrigLat]
    rfl
  refine ⟨s.rspPort ++ [packResponse {}], ?_⟩
  show respond {} { flush s with bstate := .reset } = _
  rw [hflushed, respond_withPorts]

end Sys2Proof.Machine

namespace Sys2Proof.Proofs

open Sys2Proof.Machine Sys2Proof.Statements

/-- Settles O25, by induction on the run length: a step keeps the two states equal but for LASTERR. -/
theorem lastErrIsInvisible : Obligations.LastErrIsInvisible := by
  intro n s e hs
  rw [← withLastErr_eq]
  exact run_sameButLastErr n hs e

/-- Settles O26: both ways end in `freshBlock`; the premise of soundness gives each INIT its legal
configuration and DM.RESET its EL_TRIGLAT. -/
theorem dmResetEqualsFreshInit : Obligations.DmResetEqualsFreshInit := by
  intro s hcl hel hsd hdd ⟨hscl, hsel, hssd, hsdd⟩
  obtain ⟨hclLegal, -⟩ := hscl hcl
  obtain ⟨helLegal, -, -, -, -, hlat⟩ := hsel hel
  obtain ⟨hsdLegal, -⟩ := hssd hsd
  obtain ⟨hddLegal, -⟩ := hsdd hdd
  obtain ⟨rsp, hreset⟩ := dmReset_gives_freshBlock hcl hel hsd hdd hlat
  obtain ⟨s1, s2, s3, rsp', h1, h2, h3, h4⟩ :=
    inits_give_freshBlock s.host hclLegal helLegal hsdLegal hddLegal
  exact ⟨_, s1, s2, s3, _, hreset, h1, h2, h3, h4, rfl⟩

/-- Settles O9: the reset state around the host's ports is what `hardwareReset` is. -/
theorem hardwareResetGivesTheResetState : Obligations.HardwareResetGivesTheResetState := by
  intro s rest hport
  rw [step_of_rst hport, hardwareReset_eq]

end Sys2Proof.Proofs
end
